-- ==== Sys2Proof/Word.lean ====
section
/-! DEFINITION. The word types: bytes, words, doublewords, and the 80-bit extended-real pattern (R11, R56). -/

namespace Sys2Proof

abbrev Byte := BitVec 8
abbrev Word16 := BitVec 16
abbrev Word32 := BitVec 32
abbrev Word64 := BitVec 64

/-- An 80-bit pattern in the extended real format, by its fields (R56): bit 79 the sign, bits 78:64 the biased
exponent, bits 63:0 the significand with the explicit integer bit at bit 63.  Every pattern of 80 bits is exactly
one value of this type, and the spec reads data registers only through these fields. -/
structure Ext where
  sign : Bool
  exp  : BitVec 15
  sig  : BitVec 64
deriving DecidableEq, Repr, Inhabited

/-- A 48-bit pointer register (R10, R35): a selector and an offset. -/
structure FarPtr where
  sel : Word16
  off : Word32
deriving DecidableEq, Repr, Inhabited

/-- The four rounding modes of the RC field (R24). -/
inductive Rounding where
  | nearest | down | up | chop
deriving DecidableEq, Repr

end Sys2Proof
end

