-- ==== Sys2Proof/Config.lean ====
section
/-! DEFINITION. What the spec leaves open: free values, as constants without a body.  Nothing in Lean can evaluate one
or prove a value of it, so what is proved of the model holds whatever they are. -/

namespace Sys2Proof.Config

/-- The free values of the machine (the spec's draws, R8): the `n`-th draw, `w` bits wide.  The machine counts its
draws in `State.draws`, so no two draws share a number (assumption 5). -/
opaque draw (w n : Nat) : BitVec w

/-- The functions the parameter `TRANS` is asked for (R300 (b)); FSINCOS asks for its two results apart. -/
inductive TransOp where
  | fsin | fcos | fsincosSin | fsincosCos | fptan | fpatan | f2xm1 | fyl2x | fyl2xp1
deriving DecidableEq, Repr

/-- The result that the part delivers for these operands under this rounding mode (decision D6): a significand of 64 bits
and any exponent, for the value `n * 2^k`; the machine holds it to the constraint of R300 (b).  `y` is the operand in ST(1)
of a two-operand instruction, else the operand again (assumption 21). -/
opaque transPick (op : TransOp) (y x : Ext) (rc : Rounding) : BitVec 64 × Int

/-- The round-up bit that `TRANS` answers beside its result (R300 (b)). -/
opaque transUp (op : TransOp) (y x : Ext) (rc : Rounding) : Bool

/-- For a trigonometric operand of magnitude pi/4 or more: whether the error is measured against the function with the
stored period instead of the exact one (R301 (d)). -/
opaque transStoredPeriod (op : TransOp) (x : Ext) (rc : Rounding) : Bool

/-- Whether the internally stored pi/4 of 67 significant bits is the number just above pi/4 or just below (R301 (d)
gives the number of its bits and not the bits). -/
opaque quarterPiAbove : Bool

end Sys2Proof.Config
end

