-- ==== Sys2Proof/Syntax.lean ====
section
/-! DEFINITION. The syntax: prefixes, memory operands (R91, R93, R94) and one constructor of `Instr` for every row of
spec/opcode_table.json, the rows the spec marks reserved included (R98 to R104, R105, R110). -/

namespace Sys2Proof

/-- The eight 32-bit general registers of the 80386, in the order of their register numbers (R93). -/
inductive GReg where
  | eax | ecx | edx | ebx | esp | ebp | esi | edi
deriving DecidableEq, Repr

/-- The six segment registers a prefix can name (R91). -/
inductive SReg where
  | es | cs | ss | ds | fs | gs
deriving DecidableEq, Repr

/-- The prefix bytes an ESC instruction may carry (R91): a segment override, 66H and 67H. -/
inductive Prefix where
  | seg (s : SReg)
  | opSize
  | addrSize
deriving DecidableEq, Repr

/-- The register part of a 16-bit effective address, by the R/M field (R94). -/
inductive Base16 where
  | bxSi | bxDi | bpSi | bpDi | si | di | bp | bx
deriving DecidableEq, Repr

/-- The displacement that MOD = 00, 01 or 10 gives an address with a register part (R93, R94): none, eight bits
sign-extended, or the address size's own width. -/
inductive Disp (w : Nat) where
  | none
  | d8 (d : BitVec 8)
  | full (d : BitVec w)
deriving DecidableEq, Repr

/-- A memory operand under the 16-bit address size (R94). -/
inductive EA16 where
  | direct (disp : BitVec 16)
  | based (base : Base16) (disp : Disp 16)
deriving DecidableEq, Repr

/-- A memory operand under the 32-bit address size (R93).  `index = none` is the SIB index field 100B; its scale field
is kept because the encoding holds it. -/
inductive EA32 where
  | direct (disp : BitVec 32)
  | reg (base : GReg) (disp : Disp 32)
  | sib (scale : Fin 4) (index : Option GReg) (base : GReg) (disp : Disp 32)
  | sibNoBase (scale : Fin 4) (index : Option GReg) (disp : BitVec 32)
deriving DecidableEq, Repr

/-- A memory operand, by address size (R91 (b)). -/
inductive MemOp where
  | a16 (ea : EA16)
  | a32 (ea : EA32)
deriving DecidableEq, Repr

/-- The instructions: one constructor per row of spec/opcode_table.json, in the table's order.  Each carries its
prefixes in the order they stand in memory, then its memory operand or the register number `i` of `ST(i)`; a reserved
row carries the bits the row leaves open. -/
inductive Instr where
  | faddM32 (pfx : List Prefix) (m : MemOp)
  | fmulM32 (pfx : List Prefix) (m : MemOp)
  | fcomM32 (pfx : List Prefix) (m : MemOp)
  | fcompM32 (pfx : List Prefix) (m : MemOp)
  | fsubM32 (pfx : List Prefix) (m : MemOp)
  | fsubrM32 (pfx : List Prefix) (m : MemOp)
  | fdivM32 (pfx : List Prefix) (m : MemOp)
  | fdivrM32 (pfx : List Prefix) (m : MemOp)
  | faddStSti (pfx : List Prefix) (i : Fin 8)
  | fmulStSti (pfx : List Prefix) (i : Fin 8)
  | fcomSti (pfx : List Prefix) (i : Fin 8)
  | fcompSti (pfx : List Prefix) (i : Fin 8)
  | fsubStSti (pfx : List Prefix) (i : Fin 8)
  | fsubrStSti (pfx : List Prefix) (i : Fin 8)
  | fdivStSti (pfx : List Prefix) (i : Fin 8)
  | fdivrStSti (pfx : List Prefix) (i : Fin 8)
  | fldM32 (pfx : List Prefix) (m : MemOp)
  | reservedD9Mem1 (pfx : List Prefix) (m : MemOp)
  | fstM32 (pfx : List Prefix) (m : MemOp)
  | fstpM32 (pfx : List Prefix) (m : MemOp)
  | fldenv (pfx : List Prefix) (m : MemOp)
  | fldcw (pfx : List Prefix) (m : MemOp)
  | fnstenv (pfx : List Prefix) (m : MemOp)
  | fnstcw (pfx : List Prefix) (m : MemOp)
  | fldSti (pfx : List Prefix) (i : Fin 8)
  | fxch (pfx : List Prefix) (i : Fin 8)
  | fnop (pfx : List Prefix)
  | reservedD9D1 (pfx : List Prefix)
  | reservedD9D2 (pfx : List Prefix) (x : Fin 2)
  | reservedD9D4 (pfx : List Prefix) (x : Fin 4)
  | reservedD9D8 (pfx : List Prefix) (x : Fin 8)
  | fchs (pfx : List Prefix)
  | fabs (pfx : List Prefix)
  | reservedD9E2 (pfx : List Prefix)
  | reservedD9E3 (pfx : List Prefix)
  | ftst (pfx : List Prefix)
  | fxam (pfx : List Prefix)
  | reservedD9E6 (pfx : List Prefix)
  | reservedD9E7 (pfx : List Prefix)
  | fld1 (pfx : List Prefix)
  | fldl2t (pfx : List Prefix)
  | fldl2e (pfx : List Prefix)
  | fldpi (pfx : List Prefix)
  | fldlg2 (pfx : List Prefix)
  | fldln2 (pfx : List Prefix)
  | fldz (pfx : List Prefix)
  | reservedD9EF (pfx : List Prefix)
  | f2xm1 (pfx : List Prefix)
  | fyl2x (pfx : List Prefix)
  | fptan (pfx : List Prefix)
  | fpatan (pfx : List Prefix)
  | fxtract (pfx : List Prefix)
  | fprem1 (pfx : List Prefix)
  | fdecstp (pfx : List Prefix)
  | fincstp (pfx : List Prefix)
  | fprem (pfx : List Prefix)
  | fyl2xp1 (pfx : List Prefix)
  | fsqrt (pfx : List Prefix)
  | fsincos (pfx : List Prefix)
  | frndint (pfx : List Prefix)
  | fscale (pfx : List Prefix)
  | fsin (pfx : List Prefix)
  | fcos (pfx : List Prefix)
  | fiaddI32 (pfx : List Prefix) (m : MemOp)
  | fimulI32 (pfx : List Prefix) (m : MemOp)
  | ficomI32 (pfx : List Prefix) (m : MemOp)
  | ficompI32 (pfx : List Prefix) (m : MemOp)
  | fisubI32 (pfx : List Prefix) (m : MemOp)
  | fisubrI32 (pfx : List Prefix) (m : MemOp)
  | fidivI32 (pfx : List Prefix) (m : MemOp)
  | fidivrI32 (pfx : List Prefix) (m : MemOp)
  | reservedDAC0 (pfx : List Prefix) (x : Fin 32)
  | reservedDAE0 (pfx : List Prefix) (x : Fin 8)
  | reservedDAE8 (pfx : List Prefix)
  | fucompp (pfx : List Prefix)
  | reservedDAEA (pfx : List Prefix) (x : Fin 2)
  | reservedDAEC (pfx : List Prefix) (x : Fin 4)
  | reservedDAF0 (pfx : List Prefix) (x : Fin 16)
  | fildI32 (pfx : List Prefix) (m : MemOp)
  | reservedDBMem1 (pfx : List Prefix) (m : MemOp)
  | fistI32 (pfx : List Prefix) (m : MemOp)
  | fistpI32 (pfx : List Prefix) (m : MemOp)
  | reservedDBMem4 (pfx : List Prefix) (m : MemOp)
  | fldM80 (pfx : List Prefix) (m : MemOp)
  | reservedDBMem6 (pfx : List Prefix) (m : MemOp)
  | fstpM80 (pfx : List Prefix) (m : MemOp)
  | reservedDBC0 (pfx : List Prefix) (x : Fin 32)
  | feni (pfx : List Prefix)
  | fdisi (pfx : List Prefix)
  | fnclex (pfx : List Prefix)
  | fninit (pfx : List Prefix)
  | fsetpm (pfx : List Prefix)
  | reservedDBE5 (pfx : List Prefix)
  | reservedDBE6 (pfx : List Prefix) (x : Fin 2)
  | reservedDBE8 (pfx : List Prefix) (x : Fin 8)
  | reservedDBF0 (pfx : List Prefix) (x : Fin 16)
  | faddM64 (pfx : List Prefix) (m : MemOp)
  | fmulM64 (pfx : List Prefix) (m : MemOp)
  | fcomM64 (pfx : List Prefix) (m : MemOp)
  | fcompM64 (pfx : List Prefix) (m : MemOp)
  | fsubM64 (pfx : List Prefix) (m : MemOp)
  | fsubrM64 (pfx : List Prefix) (m : MemOp)
  | fdivM64 (pfx : List Prefix) (m : MemOp)
  | fdivrM64 (pfx : List Prefix) (m : MemOp)
  | faddStiSt (pfx : List Prefix) (i : Fin 8)
  | fmulStiSt (pfx : List Prefix) (i : Fin 8)
  | reservedDCD0 (pfx : List Prefix) (x : Fin 16)
  | fsubrStiSt (pfx : List Prefix) (i : Fin 8)
  | fsubStiSt (pfx : List Prefix) (i : Fin 8)
  | fdivrStiSt (pfx : List Prefix) (i : Fin 8)
  | fdivStiSt (pfx : List Prefix) (i : Fin 8)
  | fldM64 (pfx : List Prefix) (m : MemOp)
  | reservedDDMem1 (pfx : List Prefix) (m : MemOp)
  | fstM64 (pfx : List Prefix) (m : MemOp)
  | fstpM64 (pfx : List Prefix) (m : MemOp)
  | frstor (pfx : List Prefix) (m : MemOp)
  | reservedDDMem5 (pfx : List Prefix) (m : MemOp)
  | fnsave (pfx : List Prefix) (m : MemOp)
  | fnstswM16 (pfx : List Prefix) (m : MemOp)
  | ffree (pfx : List Prefix) (i : Fin 8)
  | reservedDDC8 (pfx : List Prefix) (x : Fin 8)
  | fstSti (pfx : List Prefix) (i : Fin 8)
  | fstpSti (pfx : List Prefix) (i : Fin 8)
  | fucomSti (pfx : List Prefix) (i : Fin 8)
  | fucompSti (pfx : List Prefix) (i : Fin 8)
  | reservedDDF0 (pfx : List Prefix) (x : Fin 16)
  | fiaddI16 (pfx : List Prefix) (m : MemOp)
  | fimulI16 (pfx : List Prefix) (m : MemOp)
  | ficomI16 (pfx : List Prefix) (m : MemOp)
  | ficompI16 (pfx : List Prefix) (m : MemOp)
  | fisubI16 (pfx : List Prefix) (m : MemOp)
  | fisubrI16 (pfx : List Prefix) (m : MemOp)
  | fidivI16 (pfx : List Prefix) (m : MemOp)
  | fidivrI16 (pfx : List Prefix) (m : MemOp)
  | faddp (pfx : List Prefix) (i : Fin 8)
  | fmulp (pfx : List Prefix) (i : Fin 8)
  | reservedDED0 (pfx : List Prefix) (x : Fin 8)
  | reservedDED8 (pfx : List Prefix)
  | fcompp (pfx : List Prefix)
  | reservedDEDA (pfx : List Prefix) (x : Fin 2)
  | reservedDEDC (pfx : List Prefix) (x : Fin 4)
  | fsubrp (pfx : List Prefix) (i : Fin 8)
  | fsubp (pfx : List Prefix) (i : Fin 8)
  | fdivrp (pfx : List Prefix) (i : Fin 8)
  | fdivp (pfx : List Prefix) (i : Fin 8)
  | fildI16 (pfx : List Prefix) (m : MemOp)
  | reservedDFMem1 (pfx : List Prefix) (m : MemOp)
  | fistI16 (pfx : List Prefix) (m : MemOp)
  | fistpI16 (pfx : List Prefix) (m : MemOp)
  | fbld (pfx : List Prefix) (m : MemOp)
  | fildI64 (pfx : List Prefix) (m : MemOp)
  | fbstp (pfx : List Prefix) (m : MemOp)
  | fistpI64 (pfx : List Prefix) (m : MemOp)
  | reservedDFC0 (pfx : List Prefix) (x : Fin 32)
  | fnstswAx (pfx : List Prefix)
  | reservedDFE1 (pfx : List Prefix)
  | reservedDFE2 (pfx : List Prefix) (x : Fin 2)
  | reservedDFE4 (pfx : List Prefix) (x : Fin 4)
  | reservedDFE8 (pfx : List Prefix) (x : Fin 8)
  | reservedDFF0 (pfx : List Prefix) (x : Fin 16)
  | wait (pfx : List Prefix)
deriving DecidableEq, Repr

end Sys2Proof
end

