-- ==== Sys2Proof/Decode.lean ====
section
/-! DEFINITION. The encoding (R90 to R106): byte strings, the opcode map in both directions, the effective-address
bytes, a decoder that is total on any bytes and refuses by name, and the encoder written from the same tables. -/

namespace Sys2Proof

/-! ## Bytes -/

/-- The `n` bytes of `v`, least significant first: the byte order of every operand and displacement (R50). -/
def leBytes : Nat → Nat → List Byte
  | 0, _ => []
  | n + 1, v => BitVec.ofNat 8 v :: leBytes n (v / 256)

/-- The number a little-endian byte string holds (R50). -/
def leNat : List Byte → Nat
  | [] => 0
  | b :: bs => b.toNat + 256 * leNat bs

/-- The first `n` bytes of a string as a little-endian number, and the rest; `none` when there are not `n`. -/
def takeLe : Nat → List Byte → Option (Nat × List Byte)
  | 0, bs => some (0, bs)
  | _ + 1, [] => none
  | n + 1, b :: bs =>
    match takeLe n bs with
    | none => none
    | some (v, rest) => some (b.toNat + 256 * v, rest)

/-- A three-bit field. -/
def fin8 (n : Nat) : Fin 8 := ⟨n % 8, Nat.mod_lt _ (by decide)⟩

/-- A two-bit field. -/
def fin4 (n : Nat) : Fin 4 := ⟨n % 4, Nat.mod_lt _ (by decide)⟩

/-! ## Register numbers and prefix bytes -/

/-- The register numbers of R93. -/
def GReg.num : GReg → Nat
  | .eax => 0 | .ecx => 1 | .edx => 2 | .ebx => 3 | .esp => 4 | .ebp => 5 | .esi => 6 | .edi => 7

/-- The register a three-bit field names (R93). -/
def GReg.ofNum : Fin 8 → GReg
  | 0 => .eax | 1 => .ecx | 2 => .edx | 3 => .ebx | 4 => .esp | 5 => .ebp | 6 => .esi | 7 => .edi

/-- The R/M values of R94 that have a register part. -/
def Base16.num : Base16 → Nat
  | .bxSi => 0 | .bxDi => 1 | .bpSi => 2 | .bpDi => 3 | .si => 4 | .di => 5 | .bp => 6 | .bx => 7

/-- The register part an R/M field names under the 16-bit address size (R94). -/
def Base16.ofNum : Fin 8 → Base16
  | 0 => .bxSi | 1 => .bxDi | 2 => .bpSi | 3 => .bpDi | 4 => .si | 5 => .di | 6 => .bp | 7 => .bx

/-- The prefix bytes of R91. -/
def Prefix.code : Prefix → Byte
  | .seg .es => 0x26 | .seg .cs => 0x2E | .seg .ss => 0x36 | .seg .ds => 0x3E
  | .seg .fs => 0x64 | .seg .gs => 0x65 | .opSize => 0x66 | .addrSize => 0x67

/-- The prefix a byte is, if it is one of R91. -/
def Prefix.ofCode (b : Byte) : Option Prefix :=
  match b.toNat with
  | 0x26 => some (.seg .es)
  | 0x2E => some (.seg .cs)
  | 0x36 => some (.seg .ss)
  | 0x3E => some (.seg .ds)
  | 0x64 => some (.seg .fs)
  | 0x65 => some (.seg .gs)
  | 0x66 => some .opSize
  | 0x67 => some .addrSize
  | _ => none

/-- The address-size attribute (R91 (b)): the code segment's default, inverted by 67H. -/
def addrSize32 (default32 : Bool) (pfx : List Prefix) : Bool := default32 != pfx.contains .addrSize

/-- The operand-size attribute (R91 (c)): the code segment's default, inverted by 66H. -/
def opSize32 (default32 : Bool) (pfx : List Prefix) : Bool := default32 != pfx.contains .opSize

/-- The segment override in force: the last one written (assumption 7). -/
def segOverride : List Prefix → Option SReg
  | [] => none
  | .seg s :: rest => (segOverride rest).orElse fun _ => some s
  | .opSize :: rest => segOverride rest
  | .addrSize :: rest => segOverride rest

/-! ## The opcode map -/

/-- What the two opcode bytes say before the map is read (R90, R106): WAIT; first byte `D8H + op`, opcode field `r`
and a memory operand; or first byte `D8H + op` and second byte `C0H + 8 r + i`. -/
inductive Form where
  | wait
  | mem (op r : Fin 8) (m : MemOp)
  | reg (op r i : Fin 8)
deriving DecidableEq, Repr

/-- The prefixes of an instruction, in the order they stand in memory (R50, R92). -/
def Instr.prefixes : Instr → List Prefix
  | .faddM32 p _ => p
  | .fmulM32 p _ => p
  | .fcomM32 p _ => p
  | .fcompM32 p _ => p
  | .fsubM32 p _ => p
  | .fsubrM32 p _ => p
  | .fdivM32 p _ => p
  | .fdivrM32 p _ => p
  | .faddStSti p _ => p
  | .fmulStSti p _ => p
  | .fcomSti p _ => p
  | .fcompSti p _ => p
  | .fsubStSti p _ => p
  | .fsubrStSti p _ => p
  | .fdivStSti p _ => p
  | .fdivrStSti p _ => p
  | .fldM32 p _ => p
  | .reservedD9Mem1 p _ => p
  | .fstM32 p _ => p
  | .fstpM32 p _ => p
  | .fldenv p _ => p
  | .fldcw p _ => p
  | .fnstenv p _ => p
  | .fnstcw p _ => p
  | .fldSti p _ => p
  | .fxch p _ => p
  | .fnop p => p
  | .reservedD9D1 p => p
  | .reservedD9D2 p _ => p
  | .reservedD9D4 p _ => p
  | .reservedD9D8 p _ => p
  | .fchs p => p
  | .fabs p => p
  | .reservedD9E2 p => p
  | .reservedD9E3 p => p
  | .ftst p => p
  | .fxam p => p
  | .reservedD9E6 p => p
  | .reservedD9E7 p => p
  | .fld1 p => p
  | .fldl2t p => p
  | .fldl2e p => p
  | .fldpi p => p
  | .fldlg2 p => p
  | .fldln2 p => p
  | .fldz p => p
  | .reservedD9EF p => p
  | .f2xm1 p => p
  | .fyl2x p => p
  | .fptan p => p
  | .fpatan p => p
  | .fxtract p => p
  | .fprem1 p => p
  | .fdecstp p => p
  | .fincstp p => p
  | .fprem p => p
  | .fyl2xp1 p => p
  | .fsqrt p => p
  | .fsincos p => p
  | .frndint p => p
  | .fscale p => p
  | .fsin p => p
  | .fcos p => p
  | .fiaddI32 p _ => p
  | .fimulI32 p _ => p
  | .ficomI32 p _ => p
  | .ficompI32 p _ => p
  | .fisubI32 p _ => p
  | .fisubrI32 p _ => p
  | .fidivI32 p _ => p
  | .fidivrI32 p _ => p
  | .reservedDAC0 p _ => p
  | .reservedDAE0 p _ => p
  | .reservedDAE8 p => p
  | .fucompp p => p
  | .reservedDAEA p _ => p
  | .reservedDAEC p _ => p
  | .reservedDAF0 p _ => p
  | .fildI32 p _ => p
  | .reservedDBMem1 p _ => p
  | .fistI32 p _ => p
  | .fistpI32 p _ => p
  | .reservedDBMem4 p _ => p
  | .fldM80 p _ => p
  | .reservedDBMem6 p _ => p
  | .fstpM80 p _ => p
  | .reservedDBC0 p _ => p
  | .feni p => p
  | .fdisi p => p
  | .fnclex p => p
  | .fninit p => p
  | .fsetpm p => p
  | .reservedDBE5 p => p
  | .reservedDBE6 p _ => p
  | .reservedDBE8 p _ => p
  | .reservedDBF0 p _ => p
  | .faddM64 p _ => p
  | .fmulM64 p _ => p
  | .fcomM64 p _ => p
  | .fcompM64 p _ => p
  | .fsubM64 p _ => p
  | .fsubrM64 p _ => p
  | .fdivM64 p _ => p
  | .fdivrM64 p _ => p
  | .faddStiSt p _ => p
  | .fmulStiSt p _ => p
  | .reservedDCD0 p _ => p
  | .fsubrStiSt p _ => p
  | .fsubStiSt p _ => p
  | .fdivrStiSt p _ => p
  | .fdivStiSt p _ => p
  | .fldM64 p _ => p
  | .reservedDDMem1 p _ => p
  | .fstM64 p _ => p
  | .fstpM64 p _ => p
  | .frstor p _ => p
  | .reservedDDMem5 p _ => p
  | .fnsave p _ => p
  | .fnstswM16 p _ => p
  | .ffree p _ => p
  | .reservedDDC8 p _ => p
  | .fstSti p _ => p
  | .fstpSti p _ => p
  | .fucomSti p _ => p
  | .fucompSti p _ => p
  | .reservedDDF0 p _ => p
  | .fiaddI16 p _ => p
  | .fimulI16 p _ => p
  | .ficomI16 p _ => p
  | .ficompI16 p _ => p
  | .fisubI16 p _ => p
  | .fisubrI16 p _ => p
  | .fidivI16 p _ => p
  | .fidivrI16 p _ => p
  | .faddp p _ => p
  | .fmulp p _ => p
  | .reservedDED0 p _ => p
  | .reservedDED8 p => p
  | .fcompp p => p
  | .reservedDEDA p _ => p
  | .reservedDEDC p _ => p
  | .fsubrp p _ => p
  | .fsubp p _ => p
  | .fdivrp p _ => p
  | .fdivp p _ => p
  | .fildI16 p _ => p
  | .reservedDFMem1 p _ => p
  | .fistI16 p _ => p
  | .fistpI16 p _ => p
  | .fbld p _ => p
  | .fildI64 p _ => p
  | .fbstp p _ => p
  | .fistpI64 p _ => p
  | .reservedDFC0 p _ => p
  | .fnstswAx p => p
  | .reservedDFE1 p => p
  | .reservedDFE2 p _ => p
  | .reservedDFE4 p _ => p
  | .reservedDFE8 p _ => p
  | .reservedDFF0 p _ => p
  | .wait p => p

/-- Each instruction's place in the opcode map (R98 to R104, R110). -/
def Instr.form : Instr → Form
  | .faddM32 _ m => .mem 0 0 m
  | .fmulM32 _ m => .mem 0 1 m
  | .fcomM32 _ m => .mem 0 2 m
  | .fcompM32 _ m => .mem 0 3 m
  | .fsubM32 _ m => .mem 0 4 m
  | .fsubrM32 _ m => .mem 0 5 m
  | .fdivM32 _ m => .mem 0 6 m
  | .fdivrM32 _ m => .mem 0 7 m
  | .faddStSti _ i => .reg 0 0 i
  | .fmulStSti _ i => .reg 0 1 i
  | .fcomSti _ i => .reg 0 2 i
  | .fcompSti _ i => .reg 0 3 i
  | .fsubStSti _ i => .reg 0 4 i
  | .fsubrStSti _ i => .reg 0 5 i
  | .fdivStSti _ i => .reg 0 6 i
  | .fdivrStSti _ i => .reg 0 7 i
  | .fldM32 _ m => .mem 1 0 m
  | .reservedD9Mem1 _ m => .mem 1 1 m
  | .fstM32 _ m => .mem 1 2 m
  | .fstpM32 _ m => .mem 1 3 m
  | .fldenv _ m => .mem 1 4 m
  | .fldcw _ m => .mem 1 5 m
  | .fnstenv _ m => .mem 1 6 m
  | .fnstcw _ m => .mem 1 7 m
  | .fldSti _ i => .reg 1 0 i
  | .fxch _ i => .reg 1 1 i
  | .fnop _ => .reg 1 2 0
  | .reservedD9D1 _ => .reg 1 2 1
  | .reservedD9D2 _ x => .reg 1 2 (fin8 (2 + x.val))
  | .reservedD9D4 _ x => .reg 1 2 (fin8 (4 + x.val))
  | .reservedD9D8 _ x => .reg 1 3 x
  | .fchs _ => .reg 1 4 0
  | .fabs _ => .reg 1 4 1
  | .reservedD9E2 _ => .reg 1 4 2
  | .reservedD9E3 _ => .reg 1 4 3
  | .ftst _ => .reg 1 4 4
  | .fxam _ => .reg 1 4 5
  | .reservedD9E6 _ => .reg 1 4 6
  | .reservedD9E7 _ => .reg 1 4 7
  | .fld1 _ => .reg 1 5 0
  | .fldl2t _ => .reg 1 5 1
  | .fldl2e _ => .reg 1 5 2
  | .fldpi _ => .reg 1 5 3
  | .fldlg2 _ => .reg 1 5 4
  | .fldln2 _ => .reg 1 5 5
  | .fldz _ => .reg 1 5 6
  | .reservedD9EF _ => .reg 1 5 7
  | .f2xm1 _ => .reg 1 6 0
  | .fyl2x _ => .reg 1 6 1
  | .fptan _ => .reg 1 6 2
  | .fpatan _ => .reg 1 6 3
  | .fxtract _ => .reg 1 6 4
  | .fprem1 _ => .reg 1 6 5
  | .fdecstp _ => .reg 1 6 6
  | .fincstp _ => .reg 1 6 7
  | .fprem _ => .reg 1 7 0
  | .fyl2xp1 _ => .reg 1 7 1
  | .fsqrt _ => .reg 1 7 2
  | .fsincos _ => .reg 1 7 3
  | .frndint _ => .reg 1 7 4
  | .fscale _ => .reg 1 7 5
  | .fsin _ => .reg 1 7 6
  | .fcos _ => .reg 1 7 7
  | .fiaddI32 _ m => .mem 2 0 m
  | .fimulI32 _ m => .mem 2 1 m
  | .ficomI32 _ m => .mem 2 2 m
  | .ficompI32 _ m => .mem 2 3 m
  | .fisubI32 _ m => .mem 2 4 m
  | .fisubrI32 _ m => .mem 2 5 m
  | .fidivI32 _ m => .mem 2 6 m
  | .fidivrI32 _ m => .mem 2 7 m
  | .reservedDAC0 _ x => .reg 2 (fin8 (0 + x.val / 8)) (fin8 x.val)
  | .reservedDAE0 _ x => .reg 2 4 x
  | .reservedDAE8 _ => .reg 2 5 0
  | .fucompp _ => .reg 2 5 1
  | .reservedDAEA _ x => .reg 2 5 (fin8 (2 + x.val))
  | .reservedDAEC _ x => .reg 2 5 (fin8 (4 + x.val))
  | .reservedDAF0 _ x => .reg 2 (fin8 (6 + x.val / 8)) (fin8 x.val)
  | .fildI32 _ m => .mem 3 0 m
  | .reservedDBMem1 _ m => .mem 3 1 m
  | .fistI32 _ m => .mem 3 2 m
  | .fistpI32 _ m => .mem 3 3 m
  | .reservedDBMem4 _ m => .mem 3 4 m
  | .fldM80 _ m => .mem 3 5 m
  | .reservedDBMem6 _ m => .mem 3 6 m
  | .fstpM80 _ m => .mem 3 7 m
  | .reservedDBC0 _ x => .reg 3 (fin8 (0 + x.val / 8)) (fin8 x.val)
  | .feni _ => .reg 3 4 0
  | .fdisi _ => .reg 3 4 1
  | .fnclex _ => .reg 3 4 2
  | .fninit _ => .reg 3 4 3
  | .fsetpm _ => .reg 3 4 4
  | .reservedDBE5 _ => .reg 3 4 5
  | .reservedDBE6 _ x => .reg 3 4 (fin8 (6 + x.val))
  | .reservedDBE8 _ x => .reg 3 5 x
  | .reservedDBF0 _ x => .reg 3 (fin8 (6 + x.val / 8)) (fin8 x.val)
  | .faddM64 _ m => .mem 4 0 m
  | .fmulM64 _ m => .mem 4 1 m
  | .fcomM64 _ m => .mem 4 2 m
  | .fcompM64 _ m => .mem 4 3 m
  | .fsubM64 _ m => .mem 4 4 m
  | .fsubrM64 _ m => .mem 4 5 m
  | .fdivM64 _ m => .mem 4 6 m
  | .fdivrM64 _ m => .mem 4 7 m
  | .faddStiSt _ i => .reg 4 0 i
  | .fmulStiSt _ i => .reg 4 1 i
  | .reservedDCD0 _ x => .reg 4 (fin8 (2 + x.val / 8)) (fin8 x.val)
  | .fsubrStiSt _ i => .reg 4 4 i
  | .fsubStiSt _ i => .reg 4 5 i
  | .fdivrStiSt _ i => .reg 4 6 i
  | .fdivStiSt _ i => .reg 4 7 i
  | .fldM64 _ m => .mem 5 0 m
  | .reservedDDMem1 _ m => .mem 5 1 m
  | .fstM64 _ m => .mem 5 2 m
  | .fstpM64 _ m => .mem 5 3 m
  | .frstor _ m => .mem 5 4 m
  | .reservedDDMem5 _ m => .mem 5 5 m
  | .fnsave _ m => .mem 5 6 m
  | .fnstswM16 _ m => .mem 5 7 m
  | .ffree _ i => .reg 5 0 i
  | .reservedDDC8 _ x => .reg 5 1 x
  | .fstSti _ i => .reg 5 2 i
  | .fstpSti _ i => .reg 5 3 i
  | .fucomSti _ i => .reg 5 4 i
  | .fucompSti _ i => .reg 5 5 i
  | .reservedDDF0 _ x => .reg 5 (fin8 (6 + x.val / 8)) (fin8 x.val)
  | .fiaddI16 _ m => .mem 6 0 m
  | .fimulI16 _ m => .mem 6 1 m
  | .ficomI16 _ m => .mem 6 2 m
  | .ficompI16 _ m => .mem 6 3 m
  | .fisubI16 _ m => .mem 6 4 m
  | .fisubrI16 _ m => .mem 6 5 m
  | .fidivI16 _ m => .mem 6 6 m
  | .fidivrI16 _ m => .mem 6 7 m
  | .faddp _ i => .reg 6 0 i
  | .fmulp _ i => .reg 6 1 i
  | .reservedDED0 _ x => .reg 6 2 x
  | .reservedDED8 _ => .reg 6 3 0
  | .fcompp _ => .reg 6 3 1
  | .reservedDEDA _ x => .reg 6 3 (fin8 (2 + x.val))
  | .reservedDEDC _ x => .reg 6 3 (fin8 (4 + x.val))
  | .fsubrp _ i => .reg 6 4 i
  | .fsubp _ i => .reg 6 5 i
  | .fdivrp _ i => .reg 6 6 i
  | .fdivp _ i => .reg 6 7 i
  | .fildI16 _ m => .mem 7 0 m
  | .reservedDFMem1 _ m => .mem 7 1 m
  | .fistI16 _ m => .mem 7 2 m
  | .fistpI16 _ m => .mem 7 3 m
  | .fbld _ m => .mem 7 4 m
  | .fildI64 _ m => .mem 7 5 m
  | .fbstp _ m => .mem 7 6 m
  | .fistpI64 _ m => .mem 7 7 m
  | .reservedDFC0 _ x => .reg 7 (fin8 (0 + x.val / 8)) (fin8 x.val)
  | .fnstswAx _ => .reg 7 4 0
  | .reservedDFE1 _ => .reg 7 4 1
  | .reservedDFE2 _ x => .reg 7 4 (fin8 (2 + x.val))
  | .reservedDFE4 _ x => .reg 7 4 (fin8 (4 + x.val))
  | .reservedDFE8 _ x => .reg 7 5 x
  | .reservedDFF0 _ x => .reg 7 (fin8 (6 + x.val / 8)) (fin8 x.val)
  | .wait _ => .wait

/-- The memory rows of the opcode map (R98 to R104), by first byte and opcode field. -/
def Instr.ofMem (p : List Prefix) (op r : Fin 8) (m : MemOp) : Instr :=
  match op with
  | 0 =>
    match r with
    | 0 => .faddM32 p m
    | 1 => .fmulM32 p m
    | 2 => .fcomM32 p m
    | 3 => .fcompM32 p m
    | 4 => .fsubM32 p m
    | 5 => .fsubrM32 p m
    | 6 => .fdivM32 p m
    | 7 => .fdivrM32 p m
  | 1 =>
    match r with
    | 0 => .fldM32 p m
    | 1 => .reservedD9Mem1 p m
    | 2 => .fstM32 p m
    | 3 => .fstpM32 p m
    | 4 => .fldenv p m
    | 5 => .fldcw p m
    | 6 => .fnstenv p m
    | 7 => .fnstcw p m
  | 2 =>
    match r with
    | 0 => .fiaddI32 p m
    | 1 => .fimulI32 p m
    | 2 => .ficomI32 p m
    | 3 => .ficompI32 p m
    | 4 => .fisubI32 p m
    | 5 => .fisubrI32 p m
    | 6 => .fidivI32 p m
    | 7 => .fidivrI32 p m
  | 3 =>
    match r with
    | 0 => .fildI32 p m
    | 1 => .reservedDBMem1 p m
    | 2 => .fistI32 p m
    | 3 => .fistpI32 p m
    | 4 => .reservedDBMem4 p m
    | 5 => .fldM80 p m
    | 6 => .reservedDBMem6 p m
    | 7 => .fstpM80 p m
  | 4 =>
    match r with
    | 0 => .faddM64 p m
    | 1 => .fmulM64 p m
    | 2 => .fcomM64 p m
    | 3 => .fcompM64 p m
    | 4 => .fsubM64 p m
    | 5 => .fsubrM64 p m
    | 6 => .fdivM64 p m
    | 7 => .fdivrM64 p m
  | 5 =>
    match r with
    | 0 => .fldM64 p m
    | 1 => .reservedDDMem1 p m
    | 2 => .fstM64 p m
    | 3 => .fstpM64 p m
    | 4 => .frstor p m
    | 5 => .reservedDDMem5 p m
    | 6 => .fnsave p m
    | 7 => .fnstswM16 p m
  | 6 =>
    match r with
    | 0 => .fiaddI16 p m
    | 1 => .fimulI16 p m
    | 2 => .ficomI16 p m
    | 3 => .ficompI16 p m
    | 4 => .fisubI16 p m
    | 5 => .fisubrI16 p m
    | 6 => .fidivI16 p m
    | 7 => .fidivrI16 p m
  | 7 =>
    match r with
    | 0 => .fildI16 p m
    | 1 => .reservedDFMem1 p m
    | 2 => .fistI16 p m
    | 3 => .fistpI16 p m
    | 4 => .fbld p m
    | 5 => .fildI64 p m
    | 6 => .fbstp p m
    | 7 => .fistpI64 p m

/-- The register rows of the opcode map (R98 to R104), by first byte and the low six bits of the second. -/
def Instr.ofReg (p : List Prefix) (op r i : Fin 8) : Instr :=
  match op with
  | 0 =>
    match r with
    | 0 => .faddStSti p i
    | 1 => .fmulStSti p i
    | 2 => .fcomSti p i
    | 3 => .fcompSti p i
    | 4 => .fsubStSti p i
    | 5 => .fsubrStSti p i
    | 6 => .fdivStSti p i
    | 7 => .fdivrStSti p i
  | 1 =>
    match r with
    | 0 => .fldSti p i
    | 1 => .fxch p i
    | 2 =>
      match i with
      | 0 => .fnop p
      | 1 => .reservedD9D1 p
      | 2 => .reservedD9D2 p 0
      | 3 => .reservedD9D2 p 1
      | 4 => .reservedD9D4 p 0
      | 5 => .reservedD9D4 p 1
      | 6 => .reservedD9D4 p 2
      | 7 => .reservedD9D4 p 3
    | 3 => .reservedD9D8 p i
    | 4 =>
      match i with
      | 0 => .fchs p
      | 1 => .fabs p
      | 2 => .reservedD9E2 p
      | 3 => .reservedD9E3 p
      | 4 => .ftst p
      | 5 => .fxam p
      | 6 => .reservedD9E6 p
      | 7 => .reservedD9E7 p
    | 5 =>
      match i with
      | 0 => .fld1 p
      | 1 => .fldl2t p
      | 2 => .fldl2e p
      | 3 => .fldpi p
      | 4 => .fldlg2 p
      | 5 => .fldln2 p
      | 6 => .fldz p
      | 7 => .reservedD9EF p
    | 6 =>
      match i with
      | 0 => .f2xm1 p
      | 1 => .fyl2x p
      | 2 => .fptan p
      | 3 => .fpatan p
      | 4 => .fxtract p
      | 5 => .fprem1 p
      | 6 => .fdecstp p
      | 7 => .fincstp p
    | 7 =>
      match i with
      | 0 => .fprem p
      | 1 => .fyl2xp1 p
      | 2 => .fsqrt p
      | 3 => .fsincos p
      | 4 => .frndint p
      | 5 => .fscale p
      | 6 => .fsin p
      | 7 => .fcos p
  | 2 =>
    match r with
    | 0 => .reservedDAC0 p ⟨0 + i.val, by omega⟩
    | 1 => .reservedDAC0 p ⟨8 + i.val, by omega⟩
    | 2 => .reservedDAC0 p ⟨16 + i.val, by omega⟩
    | 3 => .reservedDAC0 p ⟨24 + i.val, by omega⟩
    | 4 => .reservedDAE0 p i
    | 5 =>
      match i with
      | 0 => .reservedDAE8 p
      | 1 => .fucompp p
      | 2 => .reservedDAEA p 0
      | 3 => .reservedDAEA p 1
      | 4 => .reservedDAEC p 0
      | 5 => .reservedDAEC p 1
      | 6 => .reservedDAEC p 2
      | 7 => .reservedDAEC p 3
    | 6 => .reservedDAF0 p ⟨0 + i.val, by omega⟩
    | 7 => .reservedDAF0 p ⟨8 + i.val, by omega⟩
  | 3 =>
    match r with
    | 0 => .reservedDBC0 p ⟨0 + i.val, by omega⟩
    | 1 => .reservedDBC0 p ⟨8 + i.val, by omega⟩
    | 2 => .reservedDBC0 p ⟨16 + i.val, by omega⟩
    | 3 => .reservedDBC0 p ⟨24 + i.val, by omega⟩
    | 4 =>
      match i with
      | 0 => .feni p
      | 1 => .fdisi p
      | 2 => .fnclex p
      | 3 => .fninit p
      | 4 => .fsetpm p
      | 5 => .reservedDBE5 p
      | 6 => .reservedDBE6 p 0
      | 7 => .reservedDBE6 p 1
    | 5 => .reservedDBE8 p i
    | 6 => .reservedDBF0 p ⟨0 + i.val, by omega⟩
    | 7 => .reservedDBF0 p ⟨8 + i.val, by omega⟩
  | 4 =>
    match r with
    | 0 => .faddStiSt p i
    | 1 => .fmulStiSt p i
    | 2 => .reservedDCD0 p ⟨0 + i.val, by omega⟩
    | 3 => .reservedDCD0 p ⟨8 + i.val, by omega⟩
    | 4 => .fsubrStiSt p i
    | 5 => .fsubStiSt p i
    | 6 => .fdivrStiSt p i
    | 7 => .fdivStiSt p i
  | 5 =>
    match r with
    | 0 => .ffree p i
    | 1 => .reservedDDC8 p i
    | 2 => .fstSti p i
    | 3 => .fstpSti p i
    | 4 => .fucomSti p i
    | 5 => .fucompSti p i
    | 6 => .reservedDDF0 p ⟨0 + i.val, by omega⟩
    | 7 => .reservedDDF0 p ⟨8 + i.val, by omega⟩
  | 6 =>
    match r with
    | 0 => .faddp p i
    | 1 => .fmulp p i
    | 2 => .reservedDED0 p i
    | 3 =>
      match i with
      | 0 => .reservedDED8 p
      | 1 => .fcompp p
      | 2 => .reservedDEDA p 0
      | 3 => .reservedDEDA p 1
      | 4 => .reservedDEDC p 0
      | 5 => .reservedDEDC p 1
      | 6 => .reservedDEDC p 2
      | 7 => .reservedDEDC p 3
    | 4 => .fsubrp p i
    | 5 => .fsubp p i
    | 6 => .fdivrp p i
    | 7 => .fdivp p i
  | 7 =>
    match r with
    | 0 => .reservedDFC0 p ⟨0 + i.val, by omega⟩
    | 1 => .reservedDFC0 p ⟨8 + i.val, by omega⟩
    | 2 => .reservedDFC0 p ⟨16 + i.val, by omega⟩
    | 3 => .reservedDFC0 p ⟨24 + i.val, by omega⟩
    | 4 =>
      match i with
      | 0 => .fnstswAx p
      | 1 => .reservedDFE1 p
      | 2 => .reservedDFE2 p 0
      | 3 => .reservedDFE2 p 1
      | 4 => .reservedDFE4 p 0
      | 5 => .reservedDFE4 p 1
      | 6 => .reservedDFE4 p 2
      | 7 => .reservedDFE4 p 3
    | 5 => .reservedDFE8 p i
    | 6 => .reservedDFF0 p ⟨0 + i.val, by omega⟩
    | 7 => .reservedDFF0 p ⟨8 + i.val, by omega⟩

/-- The instruction a form and its prefixes are. -/
def Instr.ofForm (p : List Prefix) : Form → Instr
  | .wait => .wait p
  | .mem op r m => .ofMem p op r m
  | .reg op r i => .ofReg p op r i

/-! ## The encoder -/

/-- The second opcode byte (R90): MOD, the opcode field, R/M. -/
def modRm (mod : Nat) (r : Fin 8) (rm : Nat) : Byte := BitVec.ofNat 8 (mod * 64 + r.val * 8 + rm)

/-- MOD for a displacement (R93, R94). -/
def Disp.mod {w : Nat} : Disp w → Nat
  | .none => 0
  | .d8 _ => 1
  | .full _ => 2

/-- The bytes of a displacement (R97). -/
def Disp.bytes {w : Nat} : Disp w → List Byte
  | .none => []
  | .d8 d => [d]
  | .full d => leBytes (w / 8) d.toNat

/-- The SIB byte (R93). -/
def sibByte (scale : Fin 4) (index : Option GReg) (base : Nat) : Byte :=
  BitVec.ofNat 8 (scale.val * 64 + (match index with | none => 4 | some g => g.num) * 8 + base)

/-- The second opcode byte of a memory form and the bytes after it (R93, R94). -/
def MemOp.bytes (r : Fin 8) : MemOp → List Byte
  | .a16 (.direct d) => modRm 0 r 6 :: leBytes 2 d.toNat
  | .a16 (.based b d) => modRm d.mod r b.num :: d.bytes
  | .a32 (.direct d) => modRm 0 r 5 :: leBytes 4 d.toNat
  | .a32 (.reg b d) => modRm d.mod r b.num :: d.bytes
  | .a32 (.sib sc ix b d) => modRm d.mod r 4 :: sibByte sc ix b.num :: d.bytes
  | .a32 (.sibNoBase sc ix d) => modRm 0 r 4 :: sibByte sc ix 5 :: leBytes 4 d.toNat

/-- The first opcode byte (R90): 11011B and the three-bit opcode field. -/
def escByte (op : Fin 8) : Byte := BitVec.ofNat 8 (0xD8 + op.val)

/-- The bytes of a form, prefixes left out (R90, R92, R110). -/
def Form.bytes : Form → List Byte
  | .wait => [0x9B]
  | .mem op r m => escByte op :: m.bytes r
  | .reg op r i => [escByte op, modRm 3 r i.val]

/-- The bytes of an instruction, in the order they stand in memory (R50, R92). -/
def Instr.encode (i : Instr) : List Byte := i.prefixes.map Prefix.code ++ i.form.bytes

/-- The length of an instruction in bytes, prefixes included (R92). -/
def Instr.length (i : Instr) : Nat := i.encode.length

/-- The opcode an ESC instruction records in FOP (R35): the low three bits of the first opcode byte, then the second
byte. -/
def Instr.fop (i : Instr) : BitVec 11 :=
  match i.form.bytes with
  | b1 :: b2 :: _ => BitVec.ofNat 11 (b1.toNat % 8 * 256 + b2.toNat)
  | _ => 0

/-! ## The decoder -/

/-- Why the decoder refuses a byte string. -/
inductive DecodeError where
  /-- The string ends inside an instruction. -/
  | truncated
  /-- LOCK (F0H), REPNE (F2H) or REP (F3H), which R91 refuses. -/
  | lockOrRep (b : Byte)
  /-- Another byte than a prefix, 9BH or D8H to DFH: not an NPX instruction (R106 step 6). -/
  | notNpx (b : Byte)
deriving DecidableEq, Repr

/-- The prefixes a byte string begins with, and the rest (R106 step 1). -/
def splitPrefixes : List Byte → List Prefix × List Byte
  | [] => ([], [])
  | b :: bs =>
    match Prefix.ofCode b with
    | some p => (p :: (splitPrefixes bs).1, (splitPrefixes bs).2)
    | none => ([], b :: bs)

/-- The displacement that MOD asks for, in an address of `w` bits (R93, R94, R97). -/
def decodeDisp (w mod : Nat) (bs : List Byte) : Except DecodeError (Disp w × List Byte) :=
  match mod with
  | 0 => .ok (.none, bs)
  | 1 =>
    match takeLe 1 bs with
    | some (v, rest) => .ok (.d8 (BitVec.ofNat 8 v), rest)
    | none => .error .truncated
  | _ =>
    match takeLe (w / 8) bs with
    | some (v, rest) => .ok (.full (BitVec.ofNat w v), rest)
    | none => .error .truncated

/-- The memory operand under the 16-bit address size (R94). -/
def decodeMem16 (mod : Nat) (rm : Fin 8) (bs : List Byte) : Except DecodeError (MemOp × List Byte) :=
  if mod = 0 ∧ rm = 6 then
    match takeLe 2 bs with
    | some (v, rest) => .ok (.a16 (.direct (BitVec.ofNat 16 v)), rest)
    | none => .error .truncated
  else
    match decodeDisp 16 mod bs with
    | .ok (d, rest) => .ok (.a16 (.based (.ofNum rm) d), rest)
    | .error e => .error e

/-- The SIB byte and what follows it (R93). -/
def decodeSib (mod : Nat) : List Byte → Except DecodeError (MemOp × List Byte)
  | [] => .error .truncated
  | b :: bs =>
    let scale := fin4 (b.toNat / 64)
    let ix := fin8 (b.toNat / 8)
    let index := if ix = 4 then none else some (GReg.ofNum ix)
    let base := fin8 b.toNat
    if mod = 0 ∧ base = 5 then
      match takeLe 4 bs with
      | some (v, rest) => .ok (.a32 (.sibNoBase scale index (BitVec.ofNat 32 v)), rest)
      | none => .error .truncated
    else
      match decodeDisp 32 mod bs with
      | .ok (d, rest) => .ok (.a32 (.sib scale index (.ofNum base) d), rest)
      | .error e => .error e

/-- The memory operand under the 32-bit address size (R93). -/
def decodeMem32 (mod : Nat) (rm : Fin 8) (bs : List Byte) : Except DecodeError (MemOp × List Byte) :=
  if rm = 4 then decodeSib mod bs
  else if mod = 0 ∧ rm = 5 then
    match takeLe 4 bs with
    | some (v, rest) => .ok (.a32 (.direct (BitVec.ofNat 32 v)), rest)
    | none => .error .truncated
  else
    match decodeDisp 32 mod bs with
    | .ok (d, rest) => .ok (.a32 (.reg (.ofNum rm) d), rest)
    | .error e => .error e

/-- Steps 2 to 6 of R106: the bytes after the prefixes `p`. -/
def decodeOpcode (default32 : Bool) (p : List Prefix) : List Byte → Except DecodeError (Instr × List Byte)
  | [] => .error .truncated
  | b1 :: bs =>
    if b1 = 0x9B then .ok (.wait p, bs)
    else if b1.toNat / 8 = 27 then
      match bs with
      | [] => .error .truncated
      | b2 :: bs' =>
        let op := fin8 b1.toNat
        let mod := b2.toNat / 64
        let r := fin8 (b2.toNat / 8)
        let rm := fin8 b2.toNat
        if mod = 3 then .ok (.ofReg p op r rm, bs')
        else
          match (if addrSize32 default32 p then decodeMem32 mod rm bs' else decodeMem16 mod rm bs') with
          | .ok (m, rest) => .ok (.ofMem p op r m, rest)
          | .error e => .error e
    else if b1 = 0xF0 ∨ b1 = 0xF2 ∨ b1 = 0xF3 then .error (.lockOrRep b1)
    else .error (.notNpx b1)

/-- The decoder (R106): the instruction a byte string begins with and the bytes after it, under the code segment's
default address size. -/
def decode (default32 : Bool) (bs : List Byte) : Except DecodeError (Instr × List Byte) :=
  decodeOpcode default32 (splitPrefixes bs).1 (splitPrefixes bs).2

/-! ## The opcode table's numbering -/

/-- The bytes of an instruction word numbered as spec/opcode_table.json numbers it: a row of 8 bits is the byte WAIT;
in a row of 16 bits the first opcode byte stands in bits 15:8 and the second in bits 7:0 (R106), and later bytes follow
from bit 16 up.  Zero bytes fill up to the longest instruction. -/
def tableWordBytes (nbits w : Nat) : List Byte :=
  if nbits ≤ 8 then BitVec.ofNat 8 w :: List.replicate 14 0
  else BitVec.ofNat 8 (w / 256) :: BitVec.ofNat 8 w :: leBytes 13 (w / 65536)

/-- The instruction the decoder reads from a table word, in a code segment whose default address size is 16 bits
(the mode after reset). -/
def decodeTableWord (nbits w : Nat) : Option Instr :=
  match decode false (tableWordBytes nbits w) with
  | .ok (i, _) => some i
  | .error _ => none

end Sys2Proof
end

