-- ==== Sys2Proof/Machine/Numerics.lean ====
section
/-! DEFINITION. Numbers: the 80-bit pattern's bits, classes and values, exact magnitudes, rounding, packing, the NaN
rules and the conversions between formats (R56 to R60, R120 to R152). -/

namespace Sys2Proof

/-! ## The 80 bits (R56) -/

/-- The 80 bits of a pattern as a number. -/
def extToNat (x : Ext) : Nat := x.sign.toNat * 2 ^ 79 + x.exp.toNat * 2 ^ 64 + x.sig.toNat

/-- The pattern whose 80 bits are the low 80 bits of a number. -/
def extOfNat (n : Nat) : Ext :=
  { sign := n / 2 ^ 79 % 2 == 1, exp := BitVec.ofNat 15 (n / 2 ^ 64), sig := BitVec.ofNat 64 n }

/-- The ten bytes of a pattern in memory, the sign in the highest-addressed one (R50, R56). -/
def extBytes (x : Ext) : List Byte := leBytes 10 (extToNat x)

/-- The pattern of ten bytes in memory (R50, R56). -/
def extOfBytes (bs : List Byte) : Ext := extOfNat (leNat bs)

/-! ## Named patterns -/

/-- The exponent field of infinities and NaNs. -/
def expMax : BitVec 15 := 0x7FFF

/-- The integer bit alone: the significand of 1.0 and of infinity. -/
def sigOne : BitVec 64 := 0x8000000000000000#64

/-- The QNaN indefinite (R150). -/
def indefinite : Ext := ⟨true, expMax, 0xC000000000000000#64⟩

/-- A zero of the given sign (R141). -/
def zeroExt (s : Bool) : Ext := ⟨s, 0, 0⟩

/-- An infinity of the given sign (R145). -/
def infExt (s : Bool) : Ext := ⟨s, expMax, sigOne⟩

/-- One, of the given sign. -/
def oneExt (s : Bool) : Ext := ⟨s, 0x3FFF, sigOne⟩

/-! ## Classes (R140 to R147) -/

/-- The classes of R140. -/
inductive Class where
  | zero | denormal | pseudodenormal | normal | infinity | qnan | snan | unsupported
deriving DecidableEq, Repr

/-- The class of a pattern: R140's table, total over all 80-bit patterns. -/
def classify (x : Ext) : Class :=
  if x.exp = 0 then
    if x.sig = 0 then .zero
    else if x.sig.getLsbD 63 then .pseudodenormal
    else .denormal
  else if x.sig.getLsbD 63 then
    if x.exp = expMax then
      if x.sig = sigOne then .infinity
      else if x.sig.getLsbD 62 then .qnan
      else .snan
    else .normal
  else .unsupported

def Ext.isZero (x : Ext) : Bool := classify x == .zero
def Ext.isInf (x : Ext) : Bool := classify x == .infinity
def Ext.isSnan (x : Ext) : Bool := classify x == .snan
def Ext.isNan (x : Ext) : Bool := classify x == .snan || classify x == .qnan
def Ext.isUnsupported (x : Ext) : Bool := classify x == .unsupported

/-- A register or extended-real denormal operand (R155 (a)). -/
def Ext.isDenorm (x : Ext) : Bool := classify x == .denormal || classify x == .pseudodenormal

/-- Finite and not zero: `val` is defined and is not 0 (R121). -/
def Ext.isFiniteNonzero (x : Ext) : Bool :=
  classify x == .denormal || classify x == .pseudodenormal || classify x == .normal

/-- The tag that FSTENV and FSAVE compute for a nonempty register (R29; D10 for the pseudodenormal). -/
def tagOf (x : Ext) : Nat :=
  match classify x with
  | .normal => 0
  | .zero => 1
  | _ => 2

/-! ## Exact magnitudes -/

/-- A nonnegative real known exactly or up to a remainder: `n * 2^k`, plus something strictly between 0 and `2^k` when
`more` holds.  The sign is carried apart. -/
structure Mag where
  n : Nat
  k : Int
  more : Bool := false
deriving DecidableEq, Repr

/-- `|val x|` for a finite pattern (R121). -/
def Ext.mag (x : Ext) : Mag :=
  { n := x.sig.toNat, k := (if x.exp = 0 then 1 else (x.exp.toNat : Int)) - 16446 }

/-- `floor (log2 m)` of a nonzero magnitude. -/
def Mag.log2 (m : Mag) : Int := m.n.log2 + m.k

/-- The magnitude times `2^j`. -/
def Mag.scale (m : Mag) (j : Int) : Mag := { m with k := m.k + j }

/-- `n * 2^j` for a shift that is not negative. -/
def shiftUp (n : Nat) (j : Int) : Nat := n <<< j.toNat

/-- A nonzero number shifted so that its highest 1 stands in bit 63. -/
def alignSig (n : Nat) : BitVec 64 :=
  BitVec.ofNat 64 (if n.log2 ≤ 63 then n <<< (63 - n.log2) else n >>> (n.log2 - 63))

/-- The order of two exact magnitudes.  Their exponents are compared first, so that no number is shifted far. -/
def Mag.cmp (a b : Mag) : Ordering :=
  if a.n = 0 ∨ b.n = 0 then compare a.n b.n
  else if a.log2 ≠ b.log2 then compare a.log2 b.log2
  else compare (shiftUp a.n (a.k - min a.k b.k)) (shiftUp b.n (b.k - min a.k b.k))

/-- The product of two exact magnitudes. -/
def Mag.mul (a b : Mag) : Mag := { n := a.n * b.n, k := a.k + b.k }

/-- The quotient of two exact magnitudes, the second nonzero and below `2^128`: 194 more bits of the dividend leave a
quotient of more than 66 bits, and `more` says whether a remainder is left. -/
def Mag.div (a b : Mag) : Mag :=
  { n := (a.n <<< 194) / b.n, k := a.k - 194 - b.k, more := (a.n <<< 194) % b.n != 0 }

/-- The sum of two exact signed magnitudes: its sign and its magnitude. -/
def Mag.addSigned (sa : Bool) (a : Mag) (sb : Bool) (b : Mag) : Bool × Mag :=
  let k := min a.k b.k
  let x := shiftUp a.n (a.k - k)
  let y := shiftUp b.n (b.k - k)
  if sa = sb then (sa, { n := x + y, k := k })
  else if y ≤ x then (sa, { n := x - y, k := k })
  else (sb, { n := y - x, k := k })

/-- Bit by bit from bit `b` down: the largest `r` of the form `r0 + i` with `i < 2^(b+1)` and `r * r ≤ n`. -/
def isqrtFrom (n : Nat) : Nat → Nat → Nat
  | 0, r => if (r + 1) * (r + 1) ≤ n then r + 1 else r
  | b + 1, r =>
    let t := r + 2 ^ (b + 1)
    isqrtFrom n b (if t * t ≤ n then t else r)

/-- The integer square root of a number. -/
def isqrt (n : Nat) : Nat := isqrtFrom n (n.log2 / 2 + 1) 0

/-- The square root of an exact nonzero magnitude, with at least 66 bits. -/
def Mag.sqrt (a : Mag) : Mag :=
  let odd := a.k % 2
  let n := (a.n <<< odd.toNat) <<< 136
  let r := isqrt n
  { n := r, k := (a.k - odd) / 2 - 68, more := r * r != n }

/-! ## Rounding (R24, R130, R131) -/

/-- The rounding mode that RC's two bits select (R24). -/
def Rounding.ofBits (b : BitVec 2) : Rounding :=
  match b.toNat with
  | 0 => .nearest
  | 1 => .down
  | 2 => .up
  | _ => .chop

/-- A rounded magnitude `n * 2^k`, whether it differs from the exact one, and whether it is larger. -/
structure Rounded where
  n : Nat
  k : Int
  inexact : Bool
  up : Bool
deriving DecidableEq, Repr

/-- How the discarded part compares with half a unit. -/
inductive Rest where
  | none | below | half | above
deriving DecidableEq, Repr

/-- The comparison of `r` (plus something below one when `more` holds) with half of `2^d`, `d` positive. -/
def restOf (r d : Nat) (more : Bool) : Rest :=
  if r = 0 ∧ more = false then .none
  else if r < 2 ^ (d - 1) then .below
  else if r = 2 ^ (d - 1) ∧ more = false then .half
  else .above

/-- The quotient by the unit `2^t` and what is left.  A unit far above the magnitude is not shifted by. -/
def splitAt (m : Mag) (t : Int) : Nat × Rest :=
  if t ≤ m.k then (shiftUp m.n (m.k - t), if m.more then .below else .none)
  else if m.n.log2 + 2 < (t - m.k).toNat then (0, if m.n = 0 ∧ m.more = false then .none else .below)
  else (m.n >>> (t - m.k).toNat, restOf (m.n % 2 ^ (t - m.k).toNat) (t - m.k).toNat m.more)

/-- Whether a nonexact magnitude with integer part `q` and rest `r` rounds away from zero (R130, Table 2-5). -/
def roundsUp (neg : Bool) (rc : Rounding) (q : Nat) (r : Rest) : Bool :=
  match rc with
  | .nearest => r == .above || (r == .half && q % 2 == 1)
  | .down => neg
  | .up => !neg
  | .chop => false

/-- Rounding of a signed magnitude to a multiple of `2^t`. -/
def roundUnit (neg : Bool) (rc : Rounding) (m : Mag) (t : Int) : Rounded :=
  let q := splitAt m t
  let inexact := q.2 != .none
  let up := inexact && roundsUp neg rc q.1 q.2
  { n := if up then q.1 + 1 else q.1, k := t, inexact := inexact, up := up }

/-- R130: rounding of a nonzero signed magnitude to `p` significant bits, the exponent unbounded. -/
def roundTo (neg : Bool) (rc : Rounding) (m : Mag) (p : Nat) : Rounded :=
  roundUnit neg rc m (m.log2 - p + 1)

/-- R131: rounding to an integer. -/
def roundInt (neg : Bool) (rc : Rounding) (m : Mag) : Rounded := roundUnit neg rc m 0

/-- The exponent of a rounded nonzero value. -/
def Rounded.log2 (r : Rounded) : Int := r.n.log2 + r.k

/-- `pack` of R134: the extended-real encoding of a rounded value within the exponent range. -/
def pack (s : Bool) (r : Rounded) : Ext :=
  if r.n = 0 then zeroExt s
  else if -16382 ≤ r.log2 then
    { sign := s, exp := BitVec.ofInt 15 (r.log2 + 16383), sig := alignSig r.n }
  else { sign := s, exp := 0, sig := BitVec.ofNat 64 (shiftUp r.n (r.k + 16445)) }

/-- The exponent range and precision of a real format in memory (R122). -/
structure Fmt where
  p : Nat
  emax : Int
  emin : Int
  expBits : Nat
deriving DecidableEq, Repr

/-- The single format (R57, R122). -/
def Fmt.single : Fmt := { p := 24, emax := 127, emin := -126, expBits := 8 }

/-- The double format (R58, R122). -/
def Fmt.double : Fmt := { p := 53, emax := 1023, emin := -1022, expBits := 11 }

/-- The fraction's width: all of the significand but the implied integer bit. -/
def Fmt.frac (f : Fmt) : Nat := f.p - 1

/-- The bytes of an operand of the format (R53). -/
def Fmt.bytes (f : Fmt) : Nat := (1 + f.expBits + f.frac) / 8

/-- The bits of a format from sign, exponent field and fraction. -/
def Fmt.assemble (f : Fmt) (s : Bool) (e m : Nat) : Nat := s.toNat * 2 ^ (f.expBits + f.frac) + e * 2 ^ f.frac + m

/-- `encode_fmt` of R135: the bits of a rounded value within the format's range. -/
def Fmt.encode (f : Fmt) (s : Bool) (r : Rounded) : Nat :=
  if r.n = 0 then f.assemble s 0 0
  else if f.emin ≤ r.log2 then
    f.assemble s (r.log2 + f.emax).toNat ((r.n <<< (f.frac - r.n.log2)) % 2 ^ f.frac)
  else f.assemble s 0 (shiftUp r.n (r.k - (f.emin - f.frac)))

/-- The format's infinity (R57, R58). -/
def Fmt.inf (f : Fmt) (s : Bool) : Nat := f.assemble s (2 ^ f.expBits - 1) 0

/-- The format's indefinite (R150). -/
def Fmt.indefinite (f : Fmt) : Nat := f.assemble true (2 ^ f.expBits - 1) (2 ^ (f.frac - 1))

/-- The format's largest finite number (R122, R136). -/
def Fmt.largest (f : Fmt) (s : Bool) : Nat := f.assemble s (2 ^ f.expBits - 2) (2 ^ f.frac - 1)

/-- Whether an overflow in this direction gives an infinity (R136, Table 3-11). -/
def overflowIsInf (s : Bool) : Rounding → Bool
  | .nearest => true
  | .down => s
  | .up => !s
  | .chop => false

/-- `overflow_masked` of R136 for a register of precision `p`. -/
def overflowMasked (s : Bool) (p : Nat) (rc : Rounding) : Ext :=
  if overflowIsInf s rc then infExt s
  else { sign := s, exp := 0x7FFE, sig := BitVec.ofNat 64 ((2 ^ p - 1) <<< (64 - p)) }

/-- `overflow_masked_fmt` of R136. -/
def Fmt.overflowMasked (f : Fmt) (s : Bool) (rc : Rounding) : Nat :=
  if overflowIsInf s rc then f.inf s else f.largest s

/-! ## NaNs (R151, R152) -/

/-- `quiet` of R151. -/
def quiet (x : Ext) : Ext := { x with sig := x.sig ||| 0x4000000000000000#64 }

/-- The NaN with the larger significand, quieted; for equal significands the one whose sign is 0 (D19). -/
def largerNan (a b : Ext) : Ext :=
  if b.sig.toNat < a.sig.toNat then quiet a
  else if a.sig.toNat < b.sig.toNat then quiet b
  else if a.sign then quiet b
  else quiet a

/-- `nan_result` of R152, for operands of which at least one is a NaN and none is unsupported. -/
def nanResult (a b : Ext) : Ext :=
  match classify a, classify b with
  | .qnan, .qnan => largerNan a b
  | .snan, .snan => largerNan a b
  | .qnan, _ => a
  | _, .qnan => b
  | .snan, _ => quiet a
  | _, .snan => quiet b
  | _, _ => indefinite

/-! ## Conversions to extended real (R123, R124) -/

/-- The signed integer of a sign and a magnitude. -/
def signedInt (neg : Bool) (n : Nat) : Int := if neg then -(n : Int) else n

/-- The exact extended-real pattern of `n * 2^k`, `n` nonzero and below `2^64`, within the normal range. -/
def exactExt (s : Bool) (n : Nat) (k : Int) : Ext :=
  { sign := s, exp := BitVec.ofInt 15 (n.log2 + k + 16383), sig := alignSig n }

/-- `ext_of_single` and `ext_of_double` of R123. -/
def Fmt.toExt (f : Fmt) (w : Nat) : Ext :=
  let s := w / 2 ^ (f.expBits + f.frac) % 2 == 1
  let e := w / 2 ^ f.frac % 2 ^ f.expBits
  let m := w % 2 ^ f.frac
  if e = 0 then
    if m = 0 then zeroExt s else exactExt s m (f.emin - f.frac)
  else if e = 2 ^ f.expBits - 1 then
    { sign := s, exp := expMax, sig := BitVec.ofNat 64 ((2 ^ f.frac + m) <<< (63 - f.frac)) }
  else exactExt s (2 ^ f.frac + m) ((e : Int) - f.emax - f.frac)

/-- Whether a single or double operand is a denormal (R148, R155 (b)). -/
def Fmt.isDenorm (f : Fmt) (w : Nat) : Bool := w / 2 ^ f.frac % 2 ^ f.expBits == 0 && w % 2 ^ f.frac != 0

/-- `ext_of_int` of R124. -/
def extOfInt (i : Int) : Ext := if i = 0 then zeroExt false else exactExt (decide (i < 0)) i.natAbs 0

/-- A two's complement integer of `n` bytes (R59). -/
def intOfBytes (bs : List Byte) : Int := (BitVec.ofNat (8 * bs.length) (leNat bs)).toInt

/-- The eighteen decimal digits of a packed-decimal operand, the least significant first (R60). -/
def bcdDigits : Nat → Nat → List Nat
  | 0, _ => []
  | n + 1, w => w % 16 :: bcdDigits n (w / 16)

/-- The number that decimal digits stand for, the least significant first (R60). -/
def digitsVal : List Nat → Nat
  | [] => 0
  | d :: ds => d + 10 * digitsVal ds

/-- The digits of a number in packed decimal, four bits each, the least significant first (R60). -/
def packDigits : Nat → Nat → Nat
  | 0, _ => 0
  | n + 1, v => v % 10 + 16 * packDigits n (v / 10)

/-- Whether every digit is in the range 0 to 9 (R60). -/
def bcdValid (w : Nat) : Bool := (bcdDigits 18 w).all (· < 10)

/-- `ext_of_bcd` of R124 for valid digits; the sign of a decimal zero is kept. -/
def extOfBcd (w : Nat) : Ext :=
  let s := w / 2 ^ 79 % 2 == 1
  let v := digitsVal (bcdDigits 18 w)
  if v = 0 then zeroExt s else exactExt s v 0

end Sys2Proof
end

