-- ==== Sys2Proof/Machine/State.lean ====
section
/-! DEFINITION. The state of the 80386/80387 pair, the reasons a step can stop, and the state after reset. -/

namespace Sys2Proof.Machine

/-! ## The numeric processor -/

/-- The status word SW by its fields, from bit 15 down (R16); the 16 fields' bits are all of the word. -/
structure StatusWord where
  busy : Bool
  c3 : Bool
  top : Fin 8
  c2 : Bool
  c1 : Bool
  c0 : Bool
  es : Bool
  sf : Bool
  pe : Bool
  ue : Bool
  oe : Bool
  ze : Bool
  de : Bool
  ie : Bool
deriving DecidableEq, Repr

/-- The six numeric exceptions (R400, R402), by the bit number of flag and mask. -/
inductive Exc where
  | ie | de | ze | oe | ue | pe
deriving DecidableEq, Repr

/-! ## The processor's side -/

/-- The general registers of the 80386 that addresses are formed from and that FNSTSW AX writes (R41). -/
structure Gprs where
  eax : Word32
  ecx : Word32
  edx : Word32
  ebx : Word32
  esp : Word32
  ebp : Word32
  esi : Word32
  edi : Word32
deriving DecidableEq, Repr

/-- A segment register with what the 80386 checks a reference against (R88, R431): its selector, and, from its
descriptor, the base, the limit, whether it is a big segment (its D or B bit), whether it expands down, and whether
it may be read and written. -/
structure Segment where
  sel : Word16
  base : Word32
  limit : Word32
  big : Bool
  expandDown : Bool
  readable : Bool
  writable : Bool
deriving DecidableEq, Repr

/-- The six segment registers. -/
structure Segments where
  es : Segment
  cs : Segment
  ss : Segment
  ds : Segment
  fs : Segment
  gs : Segment
deriving DecidableEq, Repr

/-- The operating modes of the 80386 (`cpu_mode`, R7). -/
inductive Mode where
  | real | prot | v86
deriving DecidableEq, Repr

/-- The bits of CR0 that govern the interface (R42). -/
structure Cr0 where
  em : Bool
  mp : Bool
  ts : Bool
  et : Bool
deriving DecidableEq, Repr

/-- The flags of the 80386 that the spec names: CF, PF and ZF, which SAHF loads (R21), and the interrupt flag, which a
handler finds disabled (R427). -/
structure CpuFlags where
  cf : Bool
  pf : Bool
  zf : Bool
  intf : Bool
deriving DecidableEq, Repr

/-- The interrupts an ESC or WAIT instruction can cause (R400): 7, 9, 13, 16, and the page fault, whose number the spec
does not give (R433). -/
inductive Trap where
  | notAvailable
  | segmentOverrun
  | generalProtection
  | pageFault
  | numericError
deriving DecidableEq, Repr

/-- Where an interrupt goes: the code segment and the offset of its handler (R440 leaves the table's format to the
processor). -/
structure Gate where
  cs : Segment
  eip : Word32
deriving DecidableEq, Repr

/-- The handlers of the five interrupts. -/
structure Gates where
  notAvailable : Gate
  segmentOverrun : Gate
  generalProtection : Gate
  pageFault : Gate
  numericError : Gate
deriving DecidableEq, Repr

/-- What the processor keeps of an interrupted program (R440): which interrupt it took, the return address, and the
interrupt flag it found. -/
structure ReturnLink where
  trap : Trap
  cs : Segment
  eip : Word32
  intf : Bool
deriving DecidableEq, Repr

/-- A range of linear addresses that paging makes inaccessible for reads, for writes or for both (R88, R433). -/
structure Denial where
  first : Word32
  last : Word32
  reads : Bool
  writes : Bool
deriving DecidableEq, Repr

/-! ## The environment -/

/-- What happens from outside the instructions of this spec, between two of them: RESET (R460), and the acts of other
80386 instructions that the spec names. -/
inductive Event where
  /-- RESETIN goes active and inactive again, between two instructions (R460, R461). -/
  | reset
  /-- The same while the instruction at CS:EIP is in progress, which is abandoned: the bytes it was storing are left with
  any value (R460, U4). -/
  | resetInStore
  /-- The environment changes EM, MP, TS and ET (R42). -/
  | setCr0 (c : Cr0)
  /-- The processor changes its registers, segments, mode and instruction pointer by instructions of its own. -/
  | cpu (gpr : Gprs) (seg : Segments) (mode : Mode) (eip : Word32)
  /-- Paging comes to deny these ranges (R88). -/
  | setDenied (d : List Denial)
  /-- IRET ends a handler (R428). -/
  | iret
  /-- STI enables the processor's interrupts (R427). -/
  | sti
  /-- SAHF copies AH into the processor's flags (R21). -/
  | sahf
  /-- A processor instruction reads `n` bytes at a linear address. -/
  | cpuRead (addr : Word32) (n : Nat)
  /-- A processor instruction writes bytes at a linear address. -/
  | cpuWrite (addr : Word32) (bytes : List Byte)
deriving DecidableEq, Repr

/-- The parameters that the spec leaves to the model's user as two values each. -/
structure Params where
  /-- `TININESS = before` (R137, D20); the spec's default is `after`. -/
  tinyBefore : Bool
  /-- `STRICT_OPERAND_SYNC` (R474, D15); the spec's default is off. -/
  strictSync : Bool
  /-- The CKM strap (R490); it has no architectural effect. -/
  ckm : Bool
deriving DecidableEq, Repr

/-! ## The state -/

/-- The whole machine.  The numeric processor first, then the processor, then memory, the parameters, and the fields
that are the model's own. -/
structure State where
  /-- The data registers R[0] to R[7] (R11). -/
  regs : Vector Ext 8
  /-- The tag word: whether each register is empty, which is all the part keeps of it (R28). -/
  empty : Vector Bool 8
  /-- The status word (R16). -/
  sw : StatusWord
  /-- The control word (R22); its reserved bits are stored bits (R26). -/
  cw : Word16
  /-- The instruction pointer register (R35). -/
  fip : FarPtr
  /-- The data pointer register (R35). -/
  fdp : FarPtr
  /-- The saved opcode (R35). -/
  fop : BitVec 11
  /-- The processor's general registers (R41). -/
  gpr : Gprs
  /-- The processor's segment registers (R41). -/
  seg : Segments
  /-- The processor's instruction pointer (R40, D11). -/
  eip : Word32
  /-- The processor's mode (R7). -/
  mode : Mode
  /-- The interface bits of CR0 (R42). -/
  cr0 : Cr0
  /-- The processor's flags (R21, R427). -/
  flags : CpuFlags
  /-- The interrupt handlers (R440). -/
  gates : Gates
  /-- The return links of the interrupts taken and not yet returned from, the latest first (R440). -/
  links : List ReturnLink
  /-- What paging denies (R88, R433). -/
  denied : List Denial
  /-- Memory: the bytes that differ from what an unlisted address reads as, by strictly rising linear address. -/
  mem : List Host.Cell
  /-- The parameters. -/
  params : Params
  /-- The model's own: how many free values have been drawn. -/
  draws : Nat
  /-- The model's own: an interrupt 9 has been taken and no FNINIT since (R431). -/
  overrun : Bool
  /-- The model's own: the linear addresses that stores have written (R85, D16). -/
  stored : List Nat
  /-- The model's own: the addresses of NPX stores since the last waited instruction (R474). -/
  pendingStores : List Nat
  /-- The model's own: the addresses of NPX loads since the last waited instruction (R474). -/
  pendingLoads : List Nat
  /-- The model's own: what the environment does before each next instruction; `none` is nothing. -/
  inputs : List (Option Event)
deriving DecidableEq, Repr

/-! ## The ways a step can stop -/

/-- The faults: behaviour the spec calls undefined and tells a total model to stop on. -/
inductive Fault where
  /-- A reserved ESC encoding was executed (R105, U8).  Raised by the meanings of the forty reserved rows, after the
  processor's own checks.  Safe: the spec gives such an instruction no effect. -/
  | reservedEncoding
  /-- An instruction that precision control affects was executed with PC = 01B (R25, U2).  Raised by the add, subtract,
  multiply, divide and square-root instructions.  Safe: the spec gives no effect. -/
  | reservedPrecision
deriving DecidableEq, Repr

/-- The refusals: programs and scenarios that the spec tells a model to refuse. -/
inductive Refusal where
  /-- An instruction without a meaning yet.  Raised by no arm of this model.  Safe. -/
  | notModelled (mnemonic : String)
  /-- The bytes at the instruction pointer are another instruction of the 80386 (R6 (a), R106 step 6).  Raised by the
  step.  Safe: the model says nothing of it. -/
  | notNpxInstruction (b : Byte)
  /-- LOCK, REP or REPNE before an instruction (R91).  Raised by the step.  Safe. -/
  | lockOrRepPrefix (b : Byte)
  /-- An instruction's bytes cross the limit of the code segment, or there are more than fifteen of them (D11,
  assumption 8).  Raised by the step.  Safe. -/
  | instructionBytesOutside
  /-- An instruction was fetched from bytes that a store has written (R85, D16).  Raised by the step.  Safe. -/
  | codeBytesStored
  /-- An ESC instruction with CR0.ET = 0: the processor would use the 80287's protocol (R462, U12).  Raised by every
  ESC instruction.  Safe. -/
  | protocol80287
  /-- Under `STRICT_OPERAND_SYNC` the processor touched an operand of a numeric instruction with no WAIT between
  (R474, D15).  Raised by the events `cpuRead` and `cpuWrite`.  Safe. -/
  | operandNotSynchronised
  /-- IRET with no return link left (R428).  Raised by the event `iret`.  Safe. -/
  | noReturnLink
deriving DecidableEq, Repr

/-- How one step of this machine ends. -/
abbrev Result := Host.Outcome State Fault Refusal

/-! ## Reset -/

/-- The status word after RESET (R44, R461): 8081H. -/
def StatusWord.reset : StatusWord :=
  { busy := true, c3 := false, top := 0, c2 := false, c1 := false, c0 := false, es := true, sf := false,
    pe := false, ue := false, oe := false, ze := false, de := false, ie := true }

/-- A real-mode segment as the 80386 leaves reset with it (PRESUMED, unsafe: assumption 2). -/
def Segment.reset (sel : Word16) (base : Word32) : Segment :=
  { sel := sel, base := base, limit := 0xFFFF, big := false, expandDown := false, readable := true, writable := true }

/-- A handler address before any is set (DESIGN CHOICE, unsafe: assumption 3). -/
def Gate.reset : Gate := { cs := .reset 0 0, eip := 0 }

/-- The machine right after reset.  CW, SW and the tags are R44's; CR0 is decision D33's; the registers and pointers
the spec leaves unspecified are zero (DESIGN CHOICE, unsafe: assumption 1), and the processor's own registers are the
80386 family's (PRESUMED, unsafe: assumption 2). -/
def State.reset : State :=
  { regs := .replicate 8 ⟨false, 0, 0⟩
    empty := .replicate 8 true
    sw := .reset
    cw := 0x037E
    fip := ⟨0, 0⟩
    fdp := ⟨0, 0⟩
    fop := 0
    gpr := { eax := 0, ecx := 0, edx := 0x308, ebx := 0, esp := 0, ebp := 0, esi := 0, edi := 0 }
    seg := { es := .reset 0 0, cs := .reset 0xF000 0xF0000, ss := .reset 0 0, ds := .reset 0 0, fs := .reset 0 0,
             gs := .reset 0 0 }
    eip := 0xFFF0
    mode := .real
    cr0 := { em := false, mp := true, ts := false, et := true }
    flags := ⟨false, false, false, false⟩
    gates := ⟨.reset, .reset, .reset, .reset, .reset⟩
    links := []
    denied := []
    mem := []
    params := { tinyBefore := false, strictSync := false, ckm := true }
    draws := 0
    overrun := false
    stored := []
    pendingStores := []
    pendingLoads := []
    inputs := [] }

end Sys2Proof.Machine
end

