-- ==== Sys2Proof/Machine/Flags.lean ====
section
/-! DEFINITION. The status and control words: their bits, the flags and masks, the error summary, and `raise`
(R16 to R26, R401, R410). -/

namespace Sys2Proof.Machine

/-! ## The words as bits -/

/-- The sixteen bits of SW, from bit 15 down (R16). -/
def StatusWord.toBits (w : StatusWord) : Word16 :=
  BitVec.ofNat 16
    (w.busy.toNat * 0x8000 + w.c3.toNat * 0x4000 + w.top.val * 0x800 + w.c2.toNat * 0x400 + w.c1.toNat * 0x200
      + w.c0.toNat * 0x100 + w.es.toNat * 0x80 + w.sf.toNat * 0x40 + w.pe.toNat * 0x20 + w.ue.toNat * 0x10
      + w.oe.toNat * 8 + w.ze.toNat * 4 + w.de.toNat * 2 + w.ie.toNat)

/-- The status word of sixteen bits (R16). -/
def StatusWord.ofBits (b : Word16) : StatusWord :=
  { busy := b.getLsbD 15, c3 := b.getLsbD 14, top := fin8 (b.toNat / 0x800), c2 := b.getLsbD 10,
    c1 := b.getLsbD 9, c0 := b.getLsbD 8, es := b.getLsbD 7, sf := b.getLsbD 6, pe := b.getLsbD 5,
    ue := b.getLsbD 4, oe := b.getLsbD 3, ze := b.getLsbD 2, de := b.getLsbD 1, ie := b.getLsbD 0 }

/-- The rounding mode in force: CW bits 11:10 (R24). -/
def State.rc (s : State) : Rounding := .ofBits (s.cw.extractLsb' 10 2)

/-- The precision that PC selects (R25, R132): `none` for the reserved 01B. -/
def pcBits (cw : Word16) : Option Nat :=
  match (cw.extractLsb' 8 2).toNat with
  | 0 => some 24
  | 2 => some 53
  | 3 => some 64
  | _ => none

/-- The bit number of an exception in SW and CW (R401, R402). -/
def Exc.bit : Exc → Nat
  | .ie => 0 | .de => 1 | .ze => 2 | .oe => 3 | .ue => 4 | .pe => 5

/-- An exception's flag. -/
def StatusWord.flag (w : StatusWord) : Exc → Bool
  | .ie => w.ie | .de => w.de | .ze => w.ze | .oe => w.oe | .ue => w.ue | .pe => w.pe

/-- The status word with an exception's flag set. -/
def StatusWord.setFlag (w : StatusWord) : Exc → StatusWord
  | .ie => { w with ie := true }
  | .de => { w with de := true }
  | .ze => { w with ze := true }
  | .oe => { w with oe := true }
  | .ue => { w with ue := true }
  | .pe => { w with pe := true }

/-- Whether an exception's mask bit is 1 (R22): the part then takes its default response. -/
def masked (cw : Word16) (x : Exc) : Bool := cw.getLsbD x.bit

/-- What R18 says ES and B are: some flag is set whose mask is clear. -/
def unmaskedFlag (cw : Word16) (w : StatusWord) : Bool :=
  (w.ie && !masked cw .ie) || (w.de && !masked cw .de) || (w.ze && !masked cw .ze)
    || (w.oe && !masked cw .oe) || (w.ue && !masked cw .ue) || (w.pe && !masked cw .pe)

/-- The status word with ES and B as R18 says them. -/
def StatusWord.summarise (cw : Word16) (w : StatusWord) : StatusWord :=
  { w with es := unmaskedFlag cw w, busy := unmaskedFlag cw w }

/-- The ERROR# output (R18, R45 (c)): active exactly while ES is 1. -/
def State.errorPin (s : State) : Bool := s.sw.es

/-! ## Updates of the status word in the state -/

def State.setSw (s : State) (w : StatusWord) : State := { s with sw := w }
def State.setC0 (s : State) (b : Bool) : State := { s with sw := { s.sw with c0 := b } }
def State.setC1 (s : State) (b : Bool) : State := { s with sw := { s.sw with c1 := b } }
def State.setC2 (s : State) (b : Bool) : State := { s with sw := { s.sw with c2 := b } }
def State.setC3 (s : State) (b : Bool) : State := { s with sw := { s.sw with c3 := b } }
def State.setTop (s : State) (t : Fin 8) : State := { s with sw := { s.sw with top := t } }

/-- C3, C2 and C0 of a comparison (R20, R281). -/
def State.setCompare (s : State) (c3 c2 c0 : Bool) : State :=
  { s with sw := { s.sw with c3 := c3, c2 := c2, c0 := c0 } }

/-- SW and CW loaded together, ES and B derived from flags and masks (R18, R332, R341, R343). -/
def State.loadWords (s : State) (cw : Word16) (w : StatusWord) : State := { s with cw := cw, sw := w.summarise cw }

/-- `raise X` of R401: the flag is set, and ES and B with it when the mask is clear. -/
def State.raise (s : State) (x : Exc) : State :=
  { s with sw :=
      { s.sw.setFlag x with es := s.sw.es || !masked s.cw x, busy := s.sw.busy || !masked s.cw x } }

/-- `raise PE` when a result is inexact (R133). -/
def State.raiseIf (s : State) (b : Bool) (x : Exc) : State := if b then s.raise x else s

/-- `stack_fault` of R410: SF, C1 = 1 for an overflow and 0 for an underflow, and `raise IE`. -/
def State.stackFault (s : State) (overflow : Bool) : State :=
  State.raise { s with sw := { s.sw with sf := true, c1 := overflow } } .ie

/-! ## Free values -/

/-- A drawn word (R8, assumption 5). -/
def State.drawn (s : State) (w : Nat) : BitVec w := Config.draw w s.draws

/-- The state after one draw. -/
def State.drew (s : State) : State := { s with draws := s.draws + 1 }

/-- C3, C2 and C0 UNDEFINED: drawn (R20, U1). -/
def State.drawC320 (s : State) : State :=
  let d := s.drawn 3
  { s.drew with sw := { s.sw with c3 := d.getLsbD 2, c2 := d.getLsbD 1, c0 := d.getLsbD 0 } }

/-- The condition code of an instruction that never rounds (R20, its fourth row; R133): C3, C2 and C0 UNDEFINED, and C1
0 whatever ends the instruction, unless a stack fault sets it. -/
def State.drawC320ClearC1 (s : State) : State := s.drawC320.setC1 false

/-- C3 and C0 UNDEFINED: drawn (R301 (c)). -/
def State.drawC30 (s : State) : State :=
  let d := s.drawn 2
  { s.drew with sw := { s.sw with c3 := d.getLsbD 1, c0 := d.getLsbD 0 } }

/-- C2 UNDEFINED: drawn (R301 (c)). -/
def State.drawC2 (s : State) : State := { s.drew with sw := { s.sw with c2 := (s.drawn 1).getLsbD 0 } }

/-- C1 UNDEFINED: drawn (R301 (c)). -/
def State.drawC1 (s : State) : State := { s.drew with sw := { s.sw with c1 := (s.drawn 1).getLsbD 0 } }

/-- All four condition bits UNDEFINED: drawn (R20, last row). -/
def State.drawC3210 (s : State) : State :=
  let d := s.drawn 4
  { s.drew with sw :=
      { s.sw with c3 := d.getLsbD 3, c2 := d.getLsbD 2, c1 := d.getLsbD 1, c0 := d.getLsbD 0 } }

/-- PE UNDEFINED: drawn, ES and B by R18 (R310, U10). -/
def State.drawPe (s : State) : State :=
  { s.drew with sw := StatusWord.summarise s.cw { s.sw with pe := (s.drawn 1).getLsbD 0 } }

end Sys2Proof.Machine
end

