-- ==== Sys2Proof/Machine/Ops.lean ====
section
/-! DEFINITION. The shared operations over memory, the register stack, the segments, the pointers and the interrupts
(R12 to R15, R35 to R38, R50, R88, R425 to R440). -/

namespace Sys2Proof.Machine

/-! ## Memory (R43, R50) -/

/-- What a byte that nothing has written reads as (DESIGN CHOICE, unsafe: assumption 4). -/
def unwritten : Byte := 0

/-- The byte at an address. -/
def readByte : List Host.Cell → Nat → Byte
  | [], _ => unwritten
  | (b, v) :: rest, a => if a = b then v else readByte rest a

/-- A byte put in front of a memory whose addresses are all higher, unless it is what an unlisted byte reads as. -/
def consCell (a : Nat) (v : Byte) (m : List Host.Cell) : List Host.Cell := if v = unwritten then m else (a, v) :: m

/-- A memory with one byte changed, in canonical form if the memory is. -/
def writeByte : List Host.Cell → Nat → Byte → List Host.Cell
  | [], a, v => consCell a v []
  | (b, w) :: rest, a, v =>
    if a < b then consCell a v ((b, w) :: rest)
    else if a = b then consCell a v rest
    else (b, w) :: writeByte rest a v

/-- The canonical form: addresses strictly rising, none listed that reads as an unlisted one. -/
def wfFrom : Nat → List Host.Cell → Bool
  | _, [] => true
  | lo, (a, v) :: rest => decide (lo ≤ a) && v != unwritten && wfFrom (a + 1) rest

/-- The canonical form of a memory. -/
def Memory.wf (m : List Host.Cell) : Bool := wfFrom 0 m

/-- The bytes at a list of addresses. -/
def readBytes (m : List Host.Cell) (as : List Nat) : List Byte := as.map (readByte m)

/-- A memory with bytes stored at a list of addresses, the first byte first. -/
def writeBytes (m : List Host.Cell) : List Nat → List Byte → List Host.Cell
  | a :: as, v :: vs => writeBytes (writeByte m a v) as vs
  | _, _ => m

/-! ## The register stack (R12 to R15, R200 (b)) -/

/-- The physical register that ST(i) names (R12). -/
def State.phys (s : State) (i : Fin 8) : Fin 8 := s.sw.top + i

/-- The contents of a physical register. -/
def State.reg (s : State) (k : Fin 8) : Ext := s.regs[k]

/-- Whether a physical register is tagged empty. -/
def State.isEmpty (s : State) (k : Fin 8) : Bool := s.empty[k]

/-- The contents of ST(i). -/
def State.st (s : State) (i : Fin 8) : Ext := s.reg (s.phys i)

/-- Whether ST(i) is empty. -/
def State.stEmpty (s : State) (i : Fin 8) : Bool := s.isEmpty (s.phys i)

/-- A physical register written and tagged nonempty (R30). -/
def State.putReg (s : State) (k : Fin 8) (v : Ext) : State :=
  { s with regs := s.regs.set k v, empty := s.empty.set k false }

/-- ST(i) written and tagged nonempty (R30). -/
def State.putSt (s : State) (i : Fin 8) (v : Ext) : State := s.putReg (s.phys i) v

/-- A physical register tagged empty, its contents kept (R15). -/
def State.freeReg (s : State) (k : Fin 8) : State := { s with empty := s.empty.set k true }

/-- `push` of R200 (b): TOP down by one modulo 8, the new top written and nonempty (R13). -/
def State.push (s : State) (v : Ext) : State := (s.setTop (s.sw.top - 1)).putReg (s.sw.top - 1) v

/-- `pop` of R200 (b): the top tagged empty, TOP up by one modulo 8 (R13). -/
def State.pop (s : State) : State := (s.freeReg s.sw.top).setTop (s.sw.top + 1)

/-- `full7` of R200 (b): the register a push would write is not empty (R14). -/
def State.full7 (s : State) : Bool := !s.isEmpty (s.sw.top + 7)

/-! ## The processor's registers and segments -/

/-- A general register (R93). -/
def Gprs.get (g : Gprs) : GReg → Word32
  | .eax => g.eax | .ecx => g.ecx | .edx => g.edx | .ebx => g.ebx
  | .esp => g.esp | .ebp => g.ebp | .esi => g.esi | .edi => g.edi

/-- The low 16 bits of a general register (R94). -/
def Gprs.get16 (g : Gprs) (r : GReg) : Word16 := (g.get r).setWidth 16

/-- AX written, the high half of EAX kept (R41 (a)). -/
def State.setAx (s : State) (v : Word16) : State :=
  { s with gpr := { s.gpr with eax := (s.gpr.eax.extractLsb' 16 16) ++ v } }

/-- A segment register. -/
def Segments.get (g : Segments) : SReg → Segment
  | .es => g.es | .cs => g.cs | .ss => g.ss | .ds => g.ds | .fs => g.fs | .gs => g.gs

/-- The base of a segment (R94): selector times 16 in real and virtual-8086 mode, the descriptor's in protected
mode. -/
def State.base (s : State) (g : Segment) : Word32 :=
  if s.mode = .prot then g.base else g.sel.setWidth 32 * 16

/-- Whether the code segment's default sizes are 32 bits (R91): only in protected mode, by the segment's D bit. -/
def State.code32 (s : State) : Bool := s.mode == .prot && s.seg.cs.big

/-- The offset `k` bytes on, wrapped around the addressing limit of the segment (R431; assumption 10). -/
def wrapOffset (g : Segment) (off : Word32) (k : Nat) : Word32 :=
  if g.big ∨ 0xFFFF < off.toNat then off + BitVec.ofNat 32 k
  else BitVec.ofNat 32 ((off.toNat + k) % 0x10000)

/-- Whether an offset lies within a segment (R431, R432): up to the limit, or above it for an expand-down segment. -/
def inLimit (g : Segment) (off : Word32) : Bool :=
  if g.expandDown then decide (g.limit.toNat < off.toNat) && (g.big || decide (off.toNat ≤ 0xFFFF))
  else decide (off.toNat ≤ g.limit.toNat)

/-- The linear address of byte `k` of an operand at an offset of a segment (R94). -/
def State.linear (s : State) (g : Segment) (off : Word32) (k : Nat) : Word32 := s.base g + wrapOffset g off k

/-- The linear addresses of an operand of `n` bytes, the first byte first (R50). -/
def State.addrs (s : State) (g : Segment) (off : Word32) (n : Nat) : List Nat :=
  (List.range n).map fun k => (s.linear g off k).toNat

/-- Whether segmentation lets a byte be reached (R88, R432). -/
def segAllows (g : Segment) (write : Bool) (off : Word32) : Bool :=
  inLimit g off && (if write then g.writable else g.readable)

/-- Whether paging lets a linear address be reached (R88, R433). -/
def pageAllows (ds : List Denial) (write : Bool) (a : Word32) : Bool :=
  ds.all fun d =>
    !(decide (d.first.toNat ≤ a.toNat) && decide (a.toNat ≤ d.last.toNat) && (if write then d.writes else d.reads))

/-- `accessible` of R89 and R431: byte `k` of an operand can be reached. -/
def State.accessible (s : State) (g : Segment) (off : Word32) (write : Bool) (k : Nat) : Bool :=
  segAllows g write (wrapOffset g off k) && pageAllows s.denied write (s.linear g off k)

/-! ## Operand synchronisation (R474, D15) and instruction bytes (R85, D16) -/

/-- The pending operand addresses are forgotten at a WAIT or a waited ESC instruction. -/
def State.synced (s : State) : State := { s with pendingStores := [], pendingLoads := [] }

/-- An operand has been read by the numeric processor. -/
def State.noteLoad (s : State) (as : List Nat) : State := { s with pendingLoads := as ++ s.pendingLoads }

/-- An operand has been written by the numeric processor. -/
def State.noteStore (s : State) (as : List Nat) : State := { s with pendingStores := as ++ s.pendingStores }

/-- Bytes stored in memory, and remembered as stored (R85). -/
def State.store (s : State) (as : List Nat) (bs : List Byte) : State :=
  { s with mem := writeBytes s.mem as bs, stored := as ++ s.stored }

/-! ## The instruction pointer and the exception pointers (R35 to R40) -/

/-- The instruction pointer past an instruction, sixteen bits wide in a 16-bit code segment (R40, D11). -/
def State.advance (s : State) (i : Instr) : State :=
  { s with eip :=
      if s.code32 then s.eip + BitVec.ofNat 32 i.length
      else BitVec.ofNat 32 ((s.eip.toNat + i.length) % 0x10000) }

/-- FIP and FOP recorded for an ESC instruction with a memory operand, and FDP its address (R36). -/
def State.recordMem (s : State) (i : Instr) (p : FarPtr) : State :=
  { s with fip := ⟨s.seg.cs.sel, s.eip⟩, fop := i.fop, fdp := p }

/-- A pointer from 48 drawn bits. -/
def farPtrOf (d : BitVec 48) : FarPtr := ⟨d.extractLsb' 32 16, d.extractLsb' 0 32⟩

/-- FIP and FOP recorded for an ESC instruction without a memory operand, FDP UNDEFINED: drawn (R36, R38, U3). -/
def State.recordReg (s : State) (i : Instr) : State :=
  { s.drew with fip := ⟨s.seg.cs.sel, s.eip⟩, fop := i.fop, fdp := farPtrOf (s.drawn 48) }

/-! ## Taking an interrupt and returning from one (R425, R428, R430 to R433, R440) -/

/-- The interrupt's number (R400); the page fault's is not in the spec (R433). -/
def Trap.vector : Trap → Option Nat
  | .notAvailable => some 7
  | .segmentOverrun => some 9
  | .generalProtection => some 13
  | .pageFault => none
  | .numericError => some 16

/-- The handler of an interrupt. -/
def Gates.get (g : Gates) : Trap → Gate
  | .notAvailable => g.notAvailable
  | .segmentOverrun => g.segmentOverrun
  | .generalProtection => g.generalProtection
  | .pageFault => g.pageFault
  | .numericError => g.numericError

/-- An interrupt taken with the given return offset (R440): the link is kept, control goes to the handler, and the
processor's interrupts are disabled (R427).  No NPX register is touched. -/
def State.enter (s : State) (t : Trap) (ret : Word32) : State :=
  { s with
    links := { trap := t, cs := s.seg.cs, eip := ret, intf := s.flags.intf } :: s.links
    seg := { s.seg with cs := (s.gates.get t).cs }
    eip := (s.gates.get t).eip
    flags := { s.flags with intf := false } }

/-- An interrupt whose return address is the instruction at the instruction pointer, prefixes included (R425, R430,
R432). -/
def State.takeTrap (s : State) (t : Trap) : State := s.enter t s.eip

/-- IRET (R428): the latest link gives back the code segment, the instruction pointer and the interrupt flag; `none`
without a link. -/
def State.returnFromTrap (s : State) : Option State :=
  match s.links with
  | [] => none
  | l :: rest =>
    some { s with links := rest, seg := { s.seg with cs := l.cs }, eip := l.eip, flags := { s.flags with intf := l.intf } }

/-! ## The state after interrupt 9 (R431, U11) -/

/-- Every piece of the numeric processor's state drawn, ES and B by R18. -/
def State.redrawNpx (s : State) : State :=
  let n := s.draws
  let cw : Word16 := Config.draw 16 (n + 9)
  { s with
    regs := Vector.ofFn fun k => extOfNat (Config.draw 80 (n + k.val)).toNat
    empty := Vector.ofFn fun k => (Config.draw 8 (n + 8)).getLsbD k.val
    cw := cw
    sw := (StatusWord.ofBits (Config.draw 16 (n + 10))).summarise cw
    fip := farPtrOf (Config.draw 48 (n + 11))
    fdp := farPtrOf (Config.draw 48 (n + 12))
    fop := Config.draw 11 (n + 13)
    draws := n + 14 }

/-- Interrupt 9's unreliable state, drawn anew before each instruction until FNINIT (U11). -/
def State.unsettle (s : State) : State := if s.overrun then s.redrawNpx else s

/-- The bytes of a store's destination that can be reached, each drawn (U11). -/
def State.drawBytes (s : State) : List Nat → State
  | [] => s
  | a :: as => State.drawBytes (s.drew.store [a] [s.drawn 8]) as

/-- Interrupt 9 (R431): the numeric state and the reachable bytes `as` of a store's destination are drawn, and the
return offset with them. -/
def State.takeOverrun (s : State) (as : List Nat) : State :=
  let t := { (s.drawBytes as).redrawNpx with overrun := true }
  t.drew.enter .segmentOverrun (t.drawn 32)

/-! ## RESET and FNINIT (R44, R330, R461) -/

/-- The NPX state after FNINIT (R44, R330): registers and pointers kept. -/
def State.initNpx (s : State) : State := { s with cw := 0x037F, sw := .ofBits 0, empty := .replicate 8 true }

/-- RESET of processor and numeric processor together (R460, R461): registers and pointers drawn (U4), the three
differences from the FINIT state, ET set (R462), the processor as at reset, memory kept. -/
def State.resetEvent (s : State) : State :=
  { s.redrawNpx with
    cw := 0x037E, sw := .reset, empty := .replicate 8 true, overrun := false
    gpr := State.reset.gpr, seg := State.reset.seg, eip := State.reset.eip, mode := State.reset.mode
    cr0 := State.reset.cr0, flags := State.reset.flags
    links := [], pendingStores := [], pendingLoads := [] }

end Sys2Proof.Machine
end

