-- ==== Sys2Proof/Machine/Operands.lean ====
section
/-! DEFINITION. Memory operands and their addresses (R91 to R94), the processor's prelude of every ESC instruction
(R200 (a), R331 (b), R434), the delivery of results (R134 to R138) and the responses to exceptions (R165, R403). -/

namespace Sys2Proof.Machine

/-! ## Effective addresses (R93, R94) -/

/-- A displacement as a number of the address size: eight bits are sign-extended (R97). -/
def dispVal {w : Nat} : Disp w → BitVec w
  | .none => 0
  | .d8 d => d.signExtend w
  | .full d => d

/-- The register part of a 16-bit address (R94). -/
def base16 (g : Gprs) : Base16 → Word16
  | .bxSi => g.get16 .ebx + g.get16 .esi
  | .bxDi => g.get16 .ebx + g.get16 .edi
  | .bpSi => g.get16 .ebp + g.get16 .esi
  | .bpDi => g.get16 .ebp + g.get16 .edi
  | .si => g.get16 .esi
  | .di => g.get16 .edi
  | .bp => g.get16 .ebp
  | .bx => g.get16 .ebx

/-- The index part of a SIB form (R93). -/
def indexVal (g : Gprs) (scale : Fin 4) : Option GReg → Word32
  | none => 0
  | some r => g.get r <<< scale.val

/-- The offset of a memory operand, modulo the address size (R93, R94). -/
def memOffset (g : Gprs) : MemOp → Word32
  | .a16 (.direct d) => d.setWidth 32
  | .a16 (.based b d) => (base16 g b + dispVal d).setWidth 32
  | .a32 (.direct d) => d
  | .a32 (.reg b d) => g.get b + dispVal d
  | .a32 (.sib sc ix b d) => g.get b + indexVal g sc ix + dispVal d
  | .a32 (.sibNoBase sc ix d) => indexVal g sc ix + d

/-- The default segment of an address whose base is this register (R93). -/
def segOfBase : GReg → SReg
  | .ebp => .ss
  | .esp => .ss
  | _ => .ds

/-- The default segment of a memory operand (R93, R94). -/
def memDefaultSeg : MemOp → SReg
  | .a16 (.direct _) => .ds
  | .a16 (.based .bpSi _) => .ss
  | .a16 (.based .bpDi _) => .ss
  | .a16 (.based .bp _) => .ss
  | .a16 (.based _ _) => .ds
  | .a32 (.direct _) => .ds
  | .a32 (.reg b _) => segOfBase b
  | .a32 (.sib _ _ b _) => segOfBase b
  | .a32 (.sibNoBase _ _ _) => .ds

/-- The segment a memory operand lies in: the override's, or the default (R91 (a)). -/
def memSeg (pfx : List Prefix) (m : MemOp) : SReg := (segOverride pfx).getD (memDefaultSeg m)

/-- A memory operand as the processor finds it: its segment and its offset (R94). -/
structure Place where
  seg : Segment
  off : Word32
deriving DecidableEq, Repr

/-- Where an instruction's memory operand lies in this state. -/
def State.place (s : State) (pfx : List Prefix) (m : MemOp) : Place :=
  { seg := s.seg.get (memSeg pfx m), off := memOffset s.gpr m }

/-- The pointer recorded in FDP (R36, R94). -/
def Place.ptr (p : Place) : FarPtr := ⟨p.seg.sel, p.off⟩

/-- The linear addresses of the `n` bytes of an operand. -/
def State.placeAddrs (s : State) (p : Place) (n : Nat) : List Nat := s.addrs p.seg p.off n

/-- The bytes of an operand (R8 `MemRead`). -/
def State.readPlace (s : State) (p : Place) (n : Nat) : List Byte := readBytes s.mem (s.placeAddrs p n)

/-- What the processor's check of the beginning of an operand of `n` bytes finds (R432, R433): interrupt 13 when
segmentation denies a byte of the first word, as R431's example has it, else a page fault when paging denies a byte of
the first doubleword (R340 corner case 5) that segmentation allows (DEDUCED, assumption 9). -/
def State.firstFault (s : State) (p : Place) (write : Bool) (n : Nat) : Option Trap :=
  if !((List.range 2).all fun k => segAllows p.seg write (wrapOffset p.seg p.off k)) then some .generalProtection
  else if (List.range (min 4 n)).any fun k =>
      segAllows p.seg write (wrapOffset p.seg p.off k) && !s.accessible p.seg p.off write k then some .pageFault
  else none

/-- Whether a later part of an operand of `n` bytes cannot be reached (R431). -/
def State.laterFault (s : State) (p : Place) (write : Bool) (n : Nat) : Bool :=
  (List.range n).any fun k => !s.accessible p.seg p.off write k

/-- The addresses of an operand's bytes that can be reached (R431, U11). -/
def State.reachable (s : State) (p : Place) (n : Nat) : List Nat :=
  ((List.range n).filter fun k => s.accessible p.seg p.off true k).map fun k => (s.linear p.seg p.off k).toNat

/-! ## The prelude (R200 (a), R331 (b), R434) -/

/-- How the processor treats an ESC instruction: whether it tests ERROR# first (R331), whether it records the pointers
(R37), and whether its operand counts for the synchronisation rule (R474). -/
structure Manner where
  waits : Bool
  records : Bool
  notes : Bool
deriving DecidableEq, Repr

/-- An instruction of the numeric families (R200 (a)). -/
def Manner.numeric : Manner := ⟨true, true, true⟩
/-- FLDCW (R332). -/
def Manner.loadControl : Manner := ⟨true, false, true⟩
/-- FLDENV and FRSTOR, which load their pointers (R341, R343) and load from memory as any other instruction does (R474). -/
def Manner.restore : Manner := ⟨true, false, true⟩
/-- FNSTENV and FNSAVE (R340, R342). -/
def Manner.saveImage : Manner := ⟨false, false, true⟩
/-- FNSTCW and FNSTSW, after which no WAIT is needed (R333, R334, R474), and the other no-wait forms. -/
def Manner.noWait : Manner := ⟨false, false, false⟩

/-- The tests that come before anything else (R434): interrupt 7, the protocol bit (U12), and for a waited instruction
interrupt 16.  A waited instruction synchronises operands even when it takes interrupt 16 (R474). -/
def escStart (k : Manner) (s : State) (go : State → Result) : Result :=
  if s.cr0.em || s.cr0.ts then .next (s.takeTrap .notAvailable)
  else if !s.cr0.et then .refused .protocol80287
  else if k.waits && s.sw.es then .next (s.synced.takeTrap .numericError)
  else go (if k.waits then s.synced else s)

/-- An ESC instruction without a memory operand. -/
def escReg (k : Manner) (i : Instr) (s : State) (body : State → Result) : Result :=
  escStart k s fun s => body (if k.records then s.recordReg i else s)

/-- An operand noted as one the processor has to wait for, where the instruction's manner says so (R474). -/
def State.noted (s : State) (k : Manner) (write : Bool) (as : List Nat) : State :=
  if k.notes then if write then s.noteStore as else s.noteLoad as else s

/-- The check of the beginning of a memory operand of `n` bytes and the recording of the pointers (R434 steps 3 and 4).
The operand is noted whatever becomes of its transfer: also when an unmasked exception cancels the store (R474, C16), and
when interrupt 9 cuts the transfer short (R431). -/
def escMem (k : Manner) (i : Instr) (m : MemOp) (write : Bool) (n : Nat) (s : State) (go : Place → State → Result) :
    Result :=
  escStart k s fun s =>
    match s.firstFault (s.place i.prefixes m) write n with
    | some t => .next (s.takeTrap t)
    | none =>
      go (s.place i.prefixes m)
        ((if k.records then s.recordMem i (s.place i.prefixes m).ptr else s).noted k write
          (s.placeAddrs (s.place i.prefixes m) n))

/-- An ESC instruction that reads an operand of `n` bytes: interrupt 9 when a later part cannot be reached (R431). -/
def escLoad (k : Manner) (i : Instr) (m : MemOp) (n : Nat) (s : State) (body : List Byte → State → Result) : Result :=
  escMem k i m false n s fun p s =>
    if s.laterFault p false n then .next (s.takeOverrun []) else body (s.readPlace p n) s

/-- What a storing instruction does to the state, and the bytes it stores if it stores. -/
abbrev Stored := State × Option (List Byte)

/-- An ESC instruction that may write an operand of `n` bytes (R54, R55, R403): the bytes its body answers are stored
as one, with interrupt 9 when a later part cannot be reached (R431). -/
def escStore (k : Manner) (i : Instr) (m : MemOp) (n : Nat) (s : State) (body : State → Stored) : Result :=
  escMem k i m true n s fun p s =>
    match body s with
    | (t, none) => .next (t.advance i)
    | (t, some bs) =>
      if s.laterFault p true n then .next (s.takeOverrun (s.reachable p n))
      else .next ((t.store (s.placeAddrs p n) bs).advance i)

/-! ## Completed bodies -/

/-- A numeric instruction without a memory operand that always completes. -/
def numReg (i : Instr) (s : State) (body : State → State) : Result :=
  escReg .numeric i s fun s => .next ((body s).advance i)

/-- A numeric instruction that reads a memory operand and always completes. -/
def numLoad (i : Instr) (m : MemOp) (n : Nat) (s : State) (body : List Byte → State → State) : Result :=
  escLoad .numeric i m n s fun bs s => .next ((body bs s).advance i)

/-- A numeric instruction that writes a memory operand. -/
def numStore (i : Instr) (m : MemOp) (n : Nat) (s : State) (body : State → Stored) : Result :=
  escStore .numeric i m n s body

/-- The body of an instruction that precision control affects: it stops on PC = 01B (R25, U2). -/
def withPrecision (i : Instr) (s : State) (body : Nat → State → State) : Result :=
  match pcBits s.cw with
  | none => .fault .reservedPrecision
  | some p => .next ((body p s).advance i)

/-- An instruction of the add, subtract, multiply, divide and square-root group without a memory operand. -/
def numRegP (i : Instr) (s : State) (body : Nat → State → State) : Result :=
  escReg .numeric i s fun s => withPrecision i s body

/-- An instruction of that group that reads a memory operand. -/
def numLoadP (i : Instr) (m : MemOp) (n : Nat) (s : State) (body : List Byte → Nat → State → State) : Result :=
  escLoad .numeric i m n s fun bs s => withPrecision i s (body bs)

/-! ## Responses (R165, R403, R410) -/

/-- `raise X`, then the masked response if the mask is 1; unmasked, nothing more (R403). -/
def State.respond (s : State) (x : Exc) (resp : State → State) : State :=
  if masked s.cw x then resp (s.raise x) else s.raise x

/-- A stack fault, then the masked response if IM is 1; unmasked, nothing more (R410). -/
def State.faultThen (s : State) (overflow : Bool) (resp : State → State) : State :=
  if masked s.cw .ie then resp (s.stackFault overflow) else s.stackFault overflow

/-- The denormal-operand check (R155, R170 step 6): unmasked it ends the instruction, else the instruction goes on. -/
def State.denormThen (s : State) (den : Bool) (go : State → State) : State :=
  if den then s.respond .de go else go s

/-- A result that is not rounded: the register is written and C1 is 0 (R133, R170 step 7). -/
def State.putExact (s : State) (k : Fin 8) (v : Ext) : State := (s.setC1 false).putReg k v

/-! ## Delivery (R134 to R138, R246) -/

/-- What a rounded result does: the pattern written, the exceptions raised, C1, and whether the delivered value differs
from the exact one. -/
structure Delivery (α : Type) where
  val : α
  flags : List Exc
  c1 : Bool
  inexact : Bool
deriving DecidableEq, Repr

/-- `tiny` of R137 for the least exponent `emin`: judged after rounding, or before it under `TININESS = before`. -/
def isTiny (before : Bool) (emin : Int) (m : Mag) (y : Rounded) : Bool :=
  decide ((if before then m.log2 else y.log2) < emin)

/-- A delivery of a rounded value with the flags `fs`, and PE when it is inexact (R133). -/
def Delivery.rounded {α : Type} (v : α) (fs : List Exc) (y : Rounded) : Delivery α :=
  { val := v, flags := if y.inexact then fs ++ [.pe] else fs, c1 := y.up, inexact := y.inexact }

/-- The response to an overflow into a register (R134, R136, R138); the last case is R246's, a result out of range even
after scaling. -/
def deliverOver (cw : Word16) (neg : Bool) (m : Mag) (p : Nat) (rc : Rounding) : Delivery Ext :=
  if masked cw .oe then
    { val := overflowMasked neg p rc, flags := [.oe, .pe], c1 := overflowIsInf neg rc, inexact := true }
  else
    let y := roundTo neg rc (m.scale (-24576)) p
    if 16383 < y.log2 then { val := infExt neg, flags := [.oe, .pe], c1 := true, inexact := true }
    else .rounded (pack neg y) [.oe] y

/-- The response to a tiny result for a register (R134, R137, R138); the last case is R246's. -/
def deliverTiny (cw : Word16) (before : Bool) (neg : Bool) (m : Mag) (p : Nat) (rc : Rounding) : Delivery Ext :=
  if masked cw .ue then
    let d := roundUnit neg rc m (max (m.log2 - p + 1) (-16445))
    .rounded (pack neg d) (if d.inexact then [.ue] else []) d
  else
    let y := roundTo neg rc (m.scale 24576) p
    if isTiny before (-16382) (m.scale 24576) y then
      { val := zeroExt neg, flags := [.ue, .pe], c1 := false, inexact := true }
    else .rounded (pack neg y) [.ue] y

/-- `deliver_st` of R134: what the exact nonzero result `m` of sign `neg` becomes in a register under precision `p`. -/
def deliver (cw : Word16) (before : Bool) (neg : Bool) (m : Mag) (p : Nat) (rc : Rounding) : Delivery Ext :=
  let y := roundTo neg rc m p
  if 16383 < y.log2 then deliverOver cw neg m p rc
  else if isTiny before (-16382) m y then deliverTiny cw before neg m p rc
  else .rounded (pack neg y) [] y

/-- The exceptions of a list raised in turn. -/
def State.raiseAll (s : State) (fs : List Exc) : State := fs.foldl State.raise s

/-- A delivery carried out on a register (R134). -/
def State.deliverTo (s : State) (k : Fin 8) (d : Delivery Ext) : State :=
  ((s.raiseAll d.flags).setC1 d.c1).putReg k d.val

/-- `deliver_st` of R134 on a physical register. -/
def State.deliverSt (s : State) (k : Fin 8) (neg : Bool) (m : Mag) (p : Nat) : State :=
  s.deliverTo k (deliver s.cw s.params.tinyBefore neg m p s.rc)

/-- `deliver_mem` of R135: the bits a nonzero finite value becomes in a single or double destination, `none` when an
unmasked overflow or underflow keeps the store from being done. -/
def deliverMem (f : Fmt) (cw : Word16) (before : Bool) (neg : Bool) (m : Mag) (rc : Rounding) :
    Delivery (Option Nat) :=
  let y := roundTo neg rc m f.p
  if f.emax < y.log2 then
    if masked cw .oe then
      { val := some (f.overflowMasked neg rc), flags := [.oe, .pe], c1 := overflowIsInf neg rc, inexact := true }
    else { val := none, flags := [.oe], c1 := false, inexact := true }
  else if isTiny before f.emin m y then
    if masked cw .ue then
      let d := roundUnit neg rc m (f.emin - f.frac)
      .rounded (some (f.encode neg d)) (if d.inexact then [.ue] else []) d
    else { val := none, flags := [.ue], c1 := false, inexact := true }
  else .rounded (some (f.encode neg y)) [] y

end Sys2Proof.Machine
end

