-- ==== Sys2Proof/Machine/Arithmetic.lean ====
section
/-! DEFINITION. The nontranscendental arithmetic instructions (R230 to R263). -/

namespace Sys2Proof.Machine

/-! ## The six basic operations (R230) -/

/-- The operations `arith` computes, on its operands in the order it is given them (R230 (b)). -/
inductive ArithOp where
  | add | sub | mul | div
deriving DecidableEq, Repr

/-- A pattern with its sign complemented. -/
def negExt (x : Ext) : Ext := { x with sign := !x.sign }

/-- Step 5 of `arith` (R230 (e)): the operation's own invalid cases, SUB already turned into ADD. -/
def arithInvalid (op : ArithOp) (x y : Ext) : Bool :=
  match op with
  | .mul => (x.isInf && y.isZero) || (x.isZero && y.isInf)
  | .div => (x.isInf && y.isInf) || (x.isZero && y.isZero)
  | _ => x.isInf && y.isInf && x.sign != y.sign

/-- Step 5's zero divide (R230 (e), R166). -/
def zeroDivide (op : ArithOp) (x y : Ext) : Bool := op == .div && y.isZero && !x.isInf

/-- The sign of an exact zero sum (R160): plus, but minus when RC is round down. -/
def zeroSumSign (rc : Rounding) : Bool := rc == .down

/-- Step 7 of `arith` (R230 (e), R160, R161): the exact special results of addition. -/
def addSpecial (rc : Rounding) (x y : Ext) : Option Ext :=
  if x.isInf then some x
  else if y.isInf then some y
  else if x.isZero && y.isZero then some (if x.sign = y.sign then zeroExt x.sign else zeroExt (zeroSumSign rc))
  else if (Mag.addSigned x.sign x.mag y.sign y.mag).2.n = 0 then some (zeroExt (zeroSumSign rc))
  else none

/-- Step 7 of `arith`: the exact special results of multiplication. -/
def mulSpecial (x y : Ext) : Option Ext :=
  if x.isInf || y.isInf then some (infExt (x.sign != y.sign))
  else if x.isZero || y.isZero then some (zeroExt (x.sign != y.sign))
  else none

/-- Step 7 of `arith`: the exact special results of division. -/
def divSpecial (x y : Ext) : Option Ext :=
  if x.isInf then some (infExt (x.sign != y.sign))
  else if y.isInf then some (zeroExt (x.sign != y.sign))
  else if x.isZero then some (zeroExt (x.sign != y.sign))
  else none

/-- Step 7 of `arith`. -/
def arithSpecial (op : ArithOp) (rc : Rounding) (x y : Ext) : Option Ext :=
  match op with
  | .mul => mulSpecial x y
  | .div => divSpecial x y
  | _ => addSpecial rc x y

/-- Step 8 of `arith`: the sign and the magnitude of the infinitely precise result. -/
def arithExact (op : ArithOp) (x y : Ext) : Bool × Mag :=
  match op with
  | .mul => (x.sign != y.sign, x.mag.mul y.mag)
  | .div => (x.sign != y.sign, x.mag.div y.mag)
  | _ => Mag.addSigned x.sign x.mag y.sign y.mag

/-- Steps 5 to 8 of `arith` (R230 (e)) on operands that are neither NaNs nor unsupported; SUB comes here as ADD of the
negated operand. -/
def arithNumbers (op : ArithOp) (k : Fin 8) (x y : Ext) (memden : Bool) (p : Nat) (fin : State → State)
    (s : State) : State :=
  if arithInvalid op x y then s.respond .ie fun s => fin (s.putExact k indefinite)
  else if zeroDivide op x y then s.respond .ze fun s => fin (s.putExact k (infExt (x.sign != y.sign)))
  else
    s.denormThen (memden || x.isDenorm || y.isDenorm) fun s =>
      match arithSpecial op s.rc x y with
      | some r => fin (s.putExact k r)
      | none => fin (s.deliverSt k (arithExact op x y).1 (arithExact op x y).2 p)

/-- `arith` of R230 (e): `k` is the destination, `fin` pops where the instruction pops and runs only when the operation
is done. -/
def arith (op : ArithOp) (k : Fin 8) (x y : Ext) (memden : Bool) (p : Nat) (fin : State → State) (s : State) : State :=
  if x.isUnsupported || y.isUnsupported then s.respond .ie fun s => fin (s.putExact k indefinite)
  else if x.isSnan || y.isSnan then s.respond .ie fun s => fin (s.putExact k (nanResult x y))
  else if x.isNan || y.isNan then fin (s.putExact k (nanResult x y))
  else if op = .sub then arithNumbers .add k x (negExt y) memden p fin s
  else arithNumbers op k x y memden p fin s

/-- Whether the operands stand as the mnemonic's destination and source, or reversed (FSUBR, FDIVR: R230 (b)). -/
inductive Order where
  | straight | reversed
deriving DecidableEq, Repr

/-- `arith` on a destination and a source in the order the mnemonic gives them (R230 (b)). -/
def arithOrdered (op : ArithOp) (o : Order) (k : Fin 8) (dst src : Ext) (memden : Bool) (p : Nat)
    (fin : State → State) (s : State) : State :=
  match o with
  | .straight => arith op k dst src memden p fin s
  | .reversed => arith op k src dst memden p fin s

/-- A basic operation on ST(d) with ST(i) as its source (R230 (d)): the result goes to ST(d). -/
def arithRegs (op : ArithOp) (o : Order) (d i : Fin 8) (fin : State → State) (p : Nat) (s : State) : State :=
  let s := s.drawC320
  if s.stEmpty d || s.stEmpty i then s.faultThen false fun s => fin (s.putSt d indefinite)
  else arithOrdered op o (s.phys d) (s.st d) (s.st i) false p fin s

/-- A basic operation on ST with a source from memory (R230 (c), (d)). -/
def arithMem (op : ArithOp) (o : Order) (y : Ext) (memden : Bool) (p : Nat) (s : State) : State :=
  let s := s.drawC320
  if s.stEmpty 0 then s.faultThen false fun s => s.putSt 0 indefinite
  else arithOrdered op o (s.phys 0) (s.st 0) y memden p id s

/-- A basic operation with a single or double operand (R230 (c)). -/
def arithReal (op : ArithOp) (o : Order) (f : Fmt) (bs : List Byte) : Nat → State → State :=
  arithMem op o (f.toExt (leNat bs)) (f.isDenorm (leNat bs))

/-- A basic operation with an integer operand (R230 (c)). -/
def arithInt (op : ArithOp) (o : Order) (bs : List Byte) : Nat → State → State :=
  arithMem op o (extOfInt (intOfBytes bs)) false

/-! ## The instructions of the basic operations (R231 to R242, R253 to R258) -/

/-- FADD m32real (R231). -/
def execFaddM32 (pfx : List Prefix) (m : MemOp) (s : State) : Result :=
  numLoadP (.faddM32 pfx m) m 4 s fun bs => arithReal .add .straight .single bs

/-- FADD m64real (R231). -/
def execFaddM64 (pfx : List Prefix) (m : MemOp) (s : State) : Result :=
  numLoadP (.faddM64 pfx m) m 8 s fun bs => arithReal .add .straight .double bs

/-- FADD ST, ST(i) (R231). -/
def execFaddStSti (pfx : List Prefix) (i : Fin 8) (s : State) : Result :=
  numRegP (.faddStSti pfx i) s (arithRegs .add .straight 0 i id)

/-- FADD ST(i), ST (R231). -/
def execFaddStiSt (pfx : List Prefix) (i : Fin 8) (s : State) : Result :=
  numRegP (.faddStiSt pfx i) s (arithRegs .add .straight i 0 id)

/-- FADDP ST(i), ST (R253). -/
def execFaddp (pfx : List Prefix) (i : Fin 8) (s : State) : Result :=
  numRegP (.faddp pfx i) s (arithRegs .add .straight i 0 State.pop)

/-- FIADD m16int (R232). -/
def execFiaddI16 (pfx : List Prefix) (m : MemOp) (s : State) : Result :=
  numLoadP (.fiaddI16 pfx m) m 2 s fun bs => arithInt .add .straight bs

/-- FIADD m32int (R232). -/
def execFiaddI32 (pfx : List Prefix) (m : MemOp) (s : State) : Result :=
  numLoadP (.fiaddI32 pfx m) m 4 s fun bs => arithInt .add .straight bs

/-- FMUL m32real (R237). -/
def execFmulM32 (pfx : List Prefix) (m : MemOp) (s : State) : Result :=
  numLoadP (.fmulM32 pfx m) m 4 s fun bs => arithReal .mul .straight .single bs

/-- FMUL m64real (R237). -/
def execFmulM64 (pfx : List Prefix) (m : MemOp) (s : State) : Result :=
  numLoadP (.fmulM64 pfx m) m 8 s fun bs => arithReal .mul .straight .double bs

/-- FMUL ST, ST(i) (R237). -/
def execFmulStSti (pfx : List Prefix) (i : Fin 8) (s : State) : Result :=
  numRegP (.fmulStSti pfx i) s (arithRegs .mul .straight 0 i id)

/-- FMUL ST(i), ST (R237). -/
def execFmulStiSt (pfx : List Prefix) (i : Fin 8) (s : State) : Result :=
  numRegP (.fmulStiSt pfx i) s (arithRegs .mul .straight i 0 id)

/-- FMULP ST(i), ST (R256). -/
def execFmulp (pfx : List Prefix) (i : Fin 8) (s : State) : Result :=
  numRegP (.fmulp pfx i) s (arithRegs .mul .straight i 0 State.pop)

/-- FIMUL m16int (R238). -/
def execFimulI16 (pfx : List Prefix) (m : MemOp) (s : State) : Result :=
  numLoadP (.fimulI16 pfx m) m 2 s fun bs => arithInt .mul .straight bs

/-- FIMUL m32int (R238). -/
def execFimulI32 (pfx : List Prefix) (m : MemOp) (s : State) : Result :=
  numLoadP (.fimulI32 pfx m) m 4 s fun bs => arithInt .mul .straight bs

/-- FSUB m32real (R233). -/
def execFsubM32 (pfx : List Prefix) (m : MemOp) (s : State) : Result :=
  numLoadP (.fsubM32 pfx m) m 4 s fun bs => arithReal .sub .straight .single bs

/-- FSUB m64real (R233). -/
def execFsubM64 (pfx : List Prefix) (m : MemOp) (s : State) : Result :=
  numLoadP (.fsubM64 pfx m) m 8 s fun bs => arithReal .sub .straight .double bs

/-- FSUB ST, ST(i) (R233). -/
def execFsubStSti (pfx : List Prefix) (i : Fin 8) (s : State) : Result :=
  numRegP (.fsubStSti pfx i) s (arithRegs .sub .straight 0 i id)

/-- FSUB ST(i), ST (R233). -/
def execFsubStiSt (pfx : List Prefix) (i : Fin 8) (s : State) : Result :=
  numRegP (.fsubStiSt pfx i) s (arithRegs .sub .straight i 0 id)

/-- FSUBP ST(i), ST (R254). -/
def execFsubp (pfx : List Prefix) (i : Fin 8) (s : State) : Result :=
  numRegP (.fsubp pfx i) s (arithRegs .sub .straight i 0 State.pop)

/-- FISUB m16int (R234). -/
def execFisubI16 (pfx : List Prefix) (m : MemOp) (s : State) : Result :=
  numLoadP (.fisubI16 pfx m) m 2 s fun bs => arithInt .sub .straight bs

/-- FISUB m32int (R234). -/
def execFisubI32 (pfx : List Prefix) (m : MemOp) (s : State) : Result :=
  numLoadP (.fisubI32 pfx m) m 4 s fun bs => arithInt .sub .straight bs

/-- FSUBR m32real (R235). -/
def execFsubrM32 (pfx : List Prefix) (m : MemOp) (s : State) : Result :=
  numLoadP (.fsubrM32 pfx m) m 4 s fun bs => arithReal .sub .reversed .single bs

/-- FSUBR m64real (R235). -/
def execFsubrM64 (pfx : List Prefix) (m : MemOp) (s : State) : Result :=
  numLoadP (.fsubrM64 pfx m) m 8 s fun bs => arithReal .sub .reversed .double bs

/-- FSUBR ST, ST(i) (R235). -/
def execFsubrStSti (pfx : List Prefix) (i : Fin 8) (s : State) : Result :=
  numRegP (.fsubrStSti pfx i) s (arithRegs .sub .reversed 0 i id)

/-- FSUBR ST(i), ST (R235). -/
def execFsubrStiSt (pfx : List Prefix) (i : Fin 8) (s : State) : Result :=
  numRegP (.fsubrStiSt pfx i) s (arithRegs .sub .reversed i 0 id)

/-- FSUBRP ST(i), ST (R255). -/
def execFsubrp (pfx : List Prefix) (i : Fin 8) (s : State) : Result :=
  numRegP (.fsubrp pfx i) s (arithRegs .sub .reversed i 0 State.pop)

/-- FISUBR m16int (R236). -/
def execFisubrI16 (pfx : List Prefix) (m : MemOp) (s : State) : Result :=
  numLoadP (.fisubrI16 pfx m) m 2 s fun bs => arithInt .sub .reversed bs

/-- FISUBR m32int (R236). -/
def execFisubrI32 (pfx : List Prefix) (m : MemOp) (s : State) : Result :=
  numLoadP (.fisubrI32 pfx m) m 4 s fun bs => arithInt .sub .reversed bs

/-- FDIV m32real (R239). -/
def execFdivM32 (pfx : List Prefix) (m : MemOp) (s : State) : Result :=
  numLoadP (.fdivM32 pfx m) m 4 s fun bs => arithReal .div .straight .single bs

/-- FDIV m64real (R239). -/
def execFdivM64 (pfx : List Prefix) (m : MemOp) (s : State) : Result :=
  numLoadP (.fdivM64 pfx m) m 8 s fun bs => arithReal .div .straight .double bs

/-- FDIV ST, ST(i) (R239). -/
def execFdivStSti (pfx : List Prefix) (i : Fin 8) (s : State) : Result :=
  numRegP (.fdivStSti pfx i) s (arithRegs .div .straight 0 i id)

/-- FDIV ST(i), ST (R239). -/
def execFdivStiSt (pfx : List Prefix) (i : Fin 8) (s : State) : Result :=
  numRegP (.fdivStiSt pfx i) s (arithRegs .div .straight i 0 id)

/-- FDIVP ST(i), ST (R257). -/
def execFdivp (pfx : List Prefix) (i : Fin 8) (s : State) : Result :=
  numRegP (.fdivp pfx i) s (arithRegs .div .straight i 0 State.pop)

/-- FIDIV m16int (R240). -/
def execFidivI16 (pfx : List Prefix) (m : MemOp) (s : State) : Result :=
  numLoadP (.fidivI16 pfx m) m 2 s fun bs => arithInt .div .straight bs

/-- FIDIV m32int (R240). -/
def execFidivI32 (pfx : List Prefix) (m : MemOp) (s : State) : Result :=
  numLoadP (.fidivI32 pfx m) m 4 s fun bs => arithInt .div .straight bs

/-- FDIVR m32real (R241). -/
def execFdivrM32 (pfx : List Prefix) (m : MemOp) (s : State) : Result :=
  numLoadP (.fdivrM32 pfx m) m 4 s fun bs => arithReal .div .reversed .single bs

/-- FDIVR m64real (R241). -/
def execFdivrM64 (pfx : List Prefix) (m : MemOp) (s : State) : Result :=
  numLoadP (.fdivrM64 pfx m) m 8 s fun bs => arithReal .div .reversed .double bs

/-- FDIVR ST, ST(i) (R241). -/
def execFdivrStSti (pfx : List Prefix) (i : Fin 8) (s : State) : Result :=
  numRegP (.fdivrStSti pfx i) s (arithRegs .div .reversed 0 i id)

/-- FDIVR ST(i), ST (R241). -/
def execFdivrStiSt (pfx : List Prefix) (i : Fin 8) (s : State) : Result :=
  numRegP (.fdivrStiSt pfx i) s (arithRegs .div .reversed i 0 id)

/-- FDIVRP ST(i), ST (R258). -/
def execFdivrp (pfx : List Prefix) (i : Fin 8) (s : State) : Result :=
  numRegP (.fdivrp pfx i) s (arithRegs .div .reversed i 0 State.pop)

/-- FIDIVR m16int (R242). -/
def execFidivrI16 (pfx : List Prefix) (m : MemOp) (s : State) : Result :=
  numLoadP (.fidivrI16 pfx m) m 2 s fun bs => arithInt .div .reversed bs

/-- FIDIVR m32int (R242). -/
def execFidivrI32 (pfx : List Prefix) (m : MemOp) (s : State) : Result :=
  numLoadP (.fidivrI32 pfx m) m 4 s fun bs => arithInt .div .reversed bs

/-! ## Instructions with one operand -/

/-- The first checks of an instruction with the one operand ST (R170 steps 1 to 4): an empty register, an unsupported
format, a signaling NaN, a quiet NaN; `dup` is the second destination's push where the instruction has one. -/
def oneOperand (dup : Ext → State → State) (go : Ext → State → State) (s : State) : State :=
  let x := s.st 0
  let k := s.phys 0
  if s.stEmpty 0 then s.faultThen false fun s => dup indefinite (s.putReg k indefinite)
  else if x.isUnsupported then s.respond .ie fun s => dup indefinite (s.putExact k indefinite)
  else if x.isSnan then s.respond .ie fun s => dup (quiet x) (s.putExact k (quiet x))
  else if x.isNan then dup x (s.setC1 false)
  else go x s

/-- No second destination. -/
def noDup (_ : Ext) (s : State) : State := s

/-- R245. -/
def squareRoot (p : Nat) (s : State) : State :=
  oneOperand noDup (s := s.drawC320) fun x s =>
    if x.isZero then s.setC1 false
    else if x.sign then s.respond .ie fun s => s.putExact (s.phys 0) indefinite
    else if x.isInf then s.setC1 false
    else s.denormThen x.isDenorm fun s => s.deliverSt (s.phys 0) false x.mag.sqrt p

/-- FSQRT (R245). -/
def execFsqrt (pfx : List Prefix) (s : State) : Result := numRegP (.fsqrt pfx) s squareRoot

/-- R248.  A magnitude of `2^63` or more is an integer already (corner case 1). -/
def roundToInteger (s : State) : State :=
  oneOperand noDup (s := s.drawC320) fun x s =>
    if x.isInf || x.isZero then s.setC1 false
    else
      s.denormThen x.isDenorm fun s =>
        if 63 ≤ x.mag.log2 then s.setC1 false
        else
          let r := roundInt x.sign s.rc x.mag
          ((s.raiseIf r.inexact .pe).setC1 r.up).putReg (s.phys 0) (pack x.sign r)

/-- FRNDINT (R248). -/
def execFrndint (pfx : List Prefix) (s : State) : Result := numReg (.frndint pfx) s roundToInteger

/-- The true exponent and the significand of a nonzero finite operand, a denormal normalised first (R250). -/
def extractParts (x : Ext) : Ext × Ext :=
  (extOfInt x.mag.log2, { sign := x.sign, exp := 0x3FFF, sig := alignSig x.sig.toNat })

/-- The first checks of an instruction with the one operand ST that also pushes (R170 steps 1 to 4, R250, R301 (b)):
underflow comes before overflow, and both destinations receive the NaN or the indefinite (D23). -/
def oneOperandPush (go : Ext → State → State) (s : State) : State :=
  if !s.stEmpty 0 && s.full7 then s.faultThen true fun s => (s.putSt 0 indefinite).push indefinite
  else oneOperand (fun v s => s.push v) go s

/-- R250: the exponent replaces ST and the significand is pushed. -/
def extract (s : State) : State :=
  oneOperandPush (s := s.drawC320ClearC1) fun x s =>
    if x.isZero then s.respond .ze fun s => (s.putReg (s.phys 0) (infExt true)).push (zeroExt x.sign)
    else if x.isInf then (s.putReg (s.phys 0) (infExt false)).push x
    else
      s.denormThen x.isDenorm fun s =>
        (s.putReg (s.phys 0) (extractParts x).1).push (extractParts x).2

/-- FXTRACT (R250). -/
def execFxtract (pfx : List Prefix) (s : State) : Result := numReg (.fxtract pfx) s extract

/-- A nonarithmetic change of ST's pattern (R251, R252). -/
def changeSign (f : Bool → Bool) (s : State) : State :=
  let s := s.drawC320ClearC1
  if s.stEmpty 0 then s.faultThen false fun s => s.putSt 0 indefinite
  else s.putReg (s.phys 0) { s.st 0 with sign := f (s.st 0).sign }

/-- FABS (R251). -/
def execFabs (pfx : List Prefix) (s : State) : Result := numReg (.fabs pfx) s (changeSign fun _ => false)

/-- FCHS (R252). -/
def execFchs (pfx : List Prefix) (s : State) : Result := numReg (.fchs pfx) s (changeSign not)

/-! ## Instructions with the operands ST and ST(1) -/

/-- The first checks of an instruction on ST and ST(1) whose result goes to ST(d) (R170 steps 1 to 4); `put` writes a
result that is not rounded, and `fin` pops where the instruction pops. -/
def twoOperands (d : Fin 8) (put : State → Fin 8 → Ext → State) (fin : State → State)
    (go : Ext → Ext → State → State) (s : State) : State :=
  let x := s.st 0
  let y := s.st 1
  let k := s.phys d
  if s.stEmpty 0 || s.stEmpty 1 then s.faultThen false fun s => fin (s.putReg k indefinite)
  else if x.isUnsupported || y.isUnsupported then s.respond .ie fun s => fin (put s k indefinite)
  else if x.isSnan || y.isSnan then s.respond .ie fun s => fin (put s k (nanResult x y))
  else if x.isNan || y.isNan then fin (put s k (nanResult x y))
  else go x y s

/-- The integer that chops a finite value toward 0 (R246). -/
def chopInt (x : Ext) : Int := signedInt x.sign (if x.mag.log2 < 0 then 0 else (splitAt x.mag 0).1)

/-- R246.  The result out of range even after the unmasked scaling is `deliver`'s last case. -/
def scaleBy (s : State) : State :=
  twoOperands 0 State.putExact id (s := s.drawC320) fun x y s =>
    if (x.isZero && y.isInf && !y.sign) || (x.isInf && y.isInf && y.sign) then
      s.respond .ie fun s => s.putExact (s.phys 0) indefinite
    else
      s.denormThen (x.isDenorm || y.isDenorm) fun s =>
        if x.isInf || x.isZero then s.setC1 false
        else if y.isInf then s.putExact (s.phys 0) (if y.sign then zeroExt x.sign else infExt x.sign)
        else if chopInt y = 0 then s.setC1 false
        else s.deliverSt (s.phys 0) x.sign (x.mag.scale (chopInt y)) 64

/-- FSCALE (R246). -/
def execFscale (pfx : List Prefix) (s : State) : Result := numReg (.fscale pfx) s scaleBy

/-- `a / b` for exact magnitudes, `b` nonzero: the integer quotient and the remainder, both at the unit of the smaller
exponent. -/
def divMag (a b : Mag) : Nat × Mag :=
  let k := min a.k b.k
  let x := shiftUp a.n (a.k - k)
  let y := shiftUp b.n (b.k - k)
  (x / y, { n := x % y, k := k })

/-- The quotient rounded to nearest, ties to even, and the remainder's magnitude and whether it changes sign (R263). -/
def divNearest (a b : Mag) : Nat × Bool × Mag :=
  let q := (divMag a b).1
  let r := (divMag a b).2
  match (r.scale 1).cmp b with
  | .lt => (q, false, r)
  | .gt => (q + 1, true, (Mag.addSigned false b true r).2)
  | .eq => if q % 2 = 0 then (q, false, r) else (q + 1, true, (Mag.addSigned false b true r).2)

/-- The result of a remainder (R262): a zero has the dividend's sign, and an exact delivery leaves C1 alone. -/
def State.deliverRem (s : State) (neg flip : Bool) (m : Mag) : State :=
  if m.n = 0 then s.putReg (s.phys 0) (zeroExt neg)
  else
    let d := deliver s.cw s.params.tinyBefore (neg != flip) m 64 s.rc
    (s.raiseAll d.flags).putReg (s.phys 0) d.val

/-- The condition code of a completed remainder (R262): C2 clear, the quotient's low three bits in C0, C3, C1. -/
def State.setQuotient (s : State) (q : Nat) : State :=
  (s.setCompare (q.testBit 1) false (q.testBit 2)).setC1 (q.testBit 0)

/-- How much one incomplete execution reduces the exponent (R262, D24). -/
def remStep (d : Nat) : Nat := 32 + d % 32

/-- `rem_common` of R262 from the denormal check on, for a dividend and a modulus that are numbers. -/
def remNumbers (nearest : Bool) (x y : Ext) (s : State) : State :=
  let a := x.mag
  let b := y.mag
  let d := a.log2 - b.log2
  if y.isInf || x.isZero then s.setQuotient 0
  else if d < 64 then
    if nearest then
      let q := divNearest a b
      (s.setQuotient q.1).deliverRem x.sign q.2.1 q.2.2
    else
      let q := divMag a b
      (s.setQuotient q.1).deliverRem x.sign false q.2
  else
    let q := divMag a (b.scale (d - remStep d.toNat))
    ((s.setCompare false true false).setC1 false).deliverRem x.sign false q.2

/-- `rem_common` of R262: the invalid case sets C2 whether IM is 0 or 1 (D22).  The condition code of the paths that
R262 says nothing of is drawn (assumption 17). -/
def remainder (nearest : Bool) (s : State) : State :=
  twoOperands 0 State.putReg id (s := s.drawC3210) fun x y s =>
    if y.isZero || x.isInf then (s.setC2 true).respond .ie fun s => s.putReg (s.phys 0) indefinite
    else s.denormThen (x.isDenorm || y.isDenorm) (remNumbers nearest x y)

/-- FPREM (R262). -/
def execFprem (pfx : List Prefix) (s : State) : Result := numReg (.fprem pfx) s (remainder false)

/-- FPREM1 (R263). -/
def execFprem1 (pfx : List Prefix) (s : State) : Result := numReg (.fprem1 pfx) s (remainder true)

end Sys2Proof.Machine
end

