-- ==== Sys2Proof/Machine/Comparison.lean ====
section
/-! DEFINITION. The comparison instructions (R280 to R291). -/

namespace Sys2Proof.Machine

/-- The order of two patterns that are not NaNs and not unsupported, in the affine sense and with +0 = -0 (R280 (b)).
An infinity's fields read as a magnitude above every finite one. -/
def orderOf (x y : Ext) : Ordering :=
  if x.isZero && y.isZero then .eq
  else if x.isZero then if y.sign then .gt else .lt
  else if y.isZero then if x.sign then .lt else .gt
  else if x.sign != y.sign then if x.sign then .lt else .gt
  else if x.sign then y.mag.cmp x.mag
  else x.mag.cmp y.mag

/-- C3, C2 and C0 of an ordering (Table 4-6). -/
def State.setOrder (s : State) : Ordering → State
  | .gt => s.setCompare false false false
  | .lt => s.setCompare false false true
  | .eq => s.setCompare true false false

/-- C3, C2, C0 = 111: unordered (Table 4-6). -/
def State.unordered (s : State) : State := s.setCompare true true true

/-- Whether a comparison is invalid (R280 (b), (c)): a quiet NaN is, but for the FUCOM family. -/
def compareInvalid (x y : Ext) (quietOk : Bool) : Bool :=
  x.isUnsupported || y.isUnsupported || x.isSnan || y.isSnan || (!quietOk && (x.isNan || y.isNan))

/-- `compare` of R280 (b); `fin` pops where the instruction pops, and runs only when the comparison is done.  The
condition code is written whether IM is 0 or 1 (D22), and drawn when an unmasked denormal stops it (D25). -/
def compare2 (x y : Ext) (memden quietOk : Bool) (fin : State → State) (s : State) : State :=
  let s := s.setC1 false
  if compareInvalid x y quietOk then s.unordered.respond .ie fin
  else if x.isNan || y.isNan then fin s.unordered
  else if memden || x.isDenorm || y.isDenorm then
    if masked s.cw .de then fin ((s.raise .de).setOrder (orderOf x y)) else (s.raise .de).drawC320
  else fin (s.setOrder (orderOf x y))

/-- The stack fault of a comparison (R280 (d)). -/
def compareFault (fin : State → State) (s : State) : State := s.unordered.faultThen false fin

/-- A comparison of ST with a value from memory. -/
def compareMem (y : Ext) (memden : Bool) (fin : State → State) (s : State) : State :=
  if s.stEmpty 0 then compareFault fin s else compare2 (s.st 0) y memden false fin s

/-- A comparison of ST with ST(i). -/
def compareReg (i : Fin 8) (quietOk : Bool) (fin : State → State) (s : State) : State :=
  if s.stEmpty 0 || s.stEmpty i then compareFault fin s else compare2 (s.st 0) (s.st i) false quietOk fin s

/-- A comparison of ST with a single or double operand. -/
def compareReal (f : Fmt) (bs : List Byte) (fin : State → State) : State → State :=
  compareMem (f.toExt (leNat bs)) (f.isDenorm (leNat bs)) fin

/-- A comparison of ST with an integer operand. -/
def compareInt (bs : List Byte) (fin : State → State) : State → State := compareMem (extOfInt (intOfBytes bs)) false fin

/-- Two pops (R283, R287). -/
def State.pop2 (s : State) : State := s.pop.pop

/-- R289: the class of ST, read even when the register is empty, and its sign. -/
def examine (s : State) : State :=
  let x := s.st 0
  let s' := s.setC1 x.sign
  if s.stEmpty 0 then s'.setCompare true false true
  else
    match classify x with
    | .unsupported => s'.setCompare false false false
    | .qnan => s'.setCompare false false true
    | .snan => s'.setCompare false false true
    | .normal => s'.setCompare false true false
    | .infinity => s'.setCompare false true true
    | .zero => s'.setCompare true false false
    | .denormal => s'.setCompare true true false
    | .pseudodenormal => s'.setCompare true true false

/-- FCOM m32real (R281). -/
def execFcomM32 (pfx : List Prefix) (m : MemOp) (s : State) : Result :=
  numLoad (.fcomM32 pfx m) m 4 s fun bs => compareReal .single bs id

/-- FCOM m64real (R281). -/
def execFcomM64 (pfx : List Prefix) (m : MemOp) (s : State) : Result :=
  numLoad (.fcomM64 pfx m) m 8 s fun bs => compareReal .double bs id

/-- FCOM ST(i) (R281). -/
def execFcomSti (pfx : List Prefix) (i : Fin 8) (s : State) : Result :=
  numReg (.fcomSti pfx i) s (compareReg i false id)

/-- FCOMP m32real (R282). -/
def execFcompM32 (pfx : List Prefix) (m : MemOp) (s : State) : Result :=
  numLoad (.fcompM32 pfx m) m 4 s fun bs => compareReal .single bs State.pop

/-- FCOMP m64real (R282). -/
def execFcompM64 (pfx : List Prefix) (m : MemOp) (s : State) : Result :=
  numLoad (.fcompM64 pfx m) m 8 s fun bs => compareReal .double bs State.pop

/-- FCOMP ST(i) (R282). -/
def execFcompSti (pfx : List Prefix) (i : Fin 8) (s : State) : Result :=
  numReg (.fcompSti pfx i) s (compareReg i false State.pop)

/-- FCOMPP (R283). -/
def execFcompp (pfx : List Prefix) (s : State) : Result :=
  numReg (.fcompp pfx) s (compareReg 1 false State.pop2)

/-- FICOM m16int (R284). -/
def execFicomI16 (pfx : List Prefix) (m : MemOp) (s : State) : Result :=
  numLoad (.ficomI16 pfx m) m 2 s fun bs => compareInt bs id

/-- FICOM m32int (R284). -/
def execFicomI32 (pfx : List Prefix) (m : MemOp) (s : State) : Result :=
  numLoad (.ficomI32 pfx m) m 4 s fun bs => compareInt bs id

/-- FICOMP m16int (R285). -/
def execFicompI16 (pfx : List Prefix) (m : MemOp) (s : State) : Result :=
  numLoad (.ficompI16 pfx m) m 2 s fun bs => compareInt bs State.pop

/-- FICOMP m32int (R285). -/
def execFicompI32 (pfx : List Prefix) (m : MemOp) (s : State) : Result :=
  numLoad (.ficompI32 pfx m) m 4 s fun bs => compareInt bs State.pop

/-- FUCOM ST(i) (R286). -/
def execFucomSti (pfx : List Prefix) (i : Fin 8) (s : State) : Result :=
  numReg (.fucomSti pfx i) s (compareReg i true id)

/-- FUCOMP ST(i) (R291). -/
def execFucompSti (pfx : List Prefix) (i : Fin 8) (s : State) : Result :=
  numReg (.fucompSti pfx i) s (compareReg i true State.pop)

/-- FUCOMPP (R287). -/
def execFucompp (pfx : List Prefix) (s : State) : Result :=
  numReg (.fucompp pfx) s (compareReg 1 true State.pop2)

/-- FTST (R288): ST against +0. -/
def execFtst (pfx : List Prefix) (s : State) : Result := numReg (.ftst pfx) s (compareMem (zeroExt false) false id)

/-- FXAM (R289). -/
def execFxam (pfx : List Prefix) (s : State) : Result := numReg (.fxam pfx) s examine

end Sys2Proof.Machine
end

