-- ==== Sys2Proof/Machine/DataTransfer.lean ====
section
/-! DEFINITION. The data transfer instructions (R200 to R211). -/

namespace Sys2Proof.Machine

/-! ## Loads -/

/-- R201 for a single or double operand `w`: the conversion is arithmetic, so a signaling NaN raises IE and a denormal
DE. -/
def loadReal (f : Fmt) (w : Nat) (s : State) : State :=
  let x := f.toExt w
  let s := s.drawC320ClearC1
  if s.full7 then s.faultThen true fun s => s.push indefinite
  else if x.isSnan then s.respond .ie fun s => s.push (quiet x)
  else s.denormThen (f.isDenorm w) fun s => s.push x

/-- A push of a value that raises nothing but the stack overflow (R201 extended, R207, R321). -/
def loadPlain (x : Ext) (s : State) : State :=
  let s := s.drawC320ClearC1
  if s.full7 then s.faultThen true fun s => s.push indefinite
  else s.push x

/-- R202: the source register is fixed before TOP changes; underflow comes before overflow. -/
def loadSt (i : Fin 8) (s : State) : State :=
  let s := s.drawC320ClearC1
  if s.stEmpty i then s.faultThen false fun s => s.push indefinite
  else if s.full7 then s.faultThen true fun s => s.push indefinite
  else s.push (s.st i)

/-- R210: a bad digit makes the pushed 80 bits UNDEFINED (U6); the push itself is as for a good operand. -/
def loadBcd (w : Nat) (s : State) : State :=
  let s := s.drawC320ClearC1
  if s.full7 then s.faultThen true fun s => s.push indefinite
  else if bcdValid w then s.push (extOfBcd w)
  else s.drew.push (extOfNat (s.drawn 80).toNat)

/-- FLD m32real (R201). -/
def execFldM32 (pfx : List Prefix) (m : MemOp) (s : State) : Result :=
  numLoad (.fldM32 pfx m) m 4 s fun bs => loadReal .single (leNat bs)

/-- FLD m64real (R201). -/
def execFldM64 (pfx : List Prefix) (m : MemOp) (s : State) : Result :=
  numLoad (.fldM64 pfx m) m 8 s fun bs => loadReal .double (leNat bs)

/-- FLD m80real (R201): the 80 bits as they are. -/
def execFldM80 (pfx : List Prefix) (m : MemOp) (s : State) : Result :=
  numLoad (.fldM80 pfx m) m 10 s fun bs => loadPlain (extOfBytes bs)

/-- FLD ST(i) (R202). -/
def execFldSti (pfx : List Prefix) (i : Fin 8) (s : State) : Result := numReg (.fldSti pfx i) s (loadSt i)

/-- FILD m16int (R207). -/
def execFildI16 (pfx : List Prefix) (m : MemOp) (s : State) : Result :=
  numLoad (.fildI16 pfx m) m 2 s fun bs => loadPlain (extOfInt (intOfBytes bs))

/-- FILD m32int (R207). -/
def execFildI32 (pfx : List Prefix) (m : MemOp) (s : State) : Result :=
  numLoad (.fildI32 pfx m) m 4 s fun bs => loadPlain (extOfInt (intOfBytes bs))

/-- FILD m64int (R207). -/
def execFildI64 (pfx : List Prefix) (m : MemOp) (s : State) : Result :=
  numLoad (.fildI64 pfx m) m 8 s fun bs => loadPlain (extOfInt (intOfBytes bs))

/-- FBLD (R210). -/
def execFbld (pfx : List Prefix) (m : MemOp) (s : State) : Result :=
  numLoad (.fbld pfx m) m 10 s fun bs => loadBcd (leNat bs)

/-! ## Stores to registers, exchange -/

/-- R203 and R204 with a register destination: 80 bits unchanged; `fin` pops for FSTP. -/
def storeSt (i : Fin 8) (fin : State → State) (s : State) : State :=
  let s := s.drawC320
  if s.stEmpty 0 then s.faultThen false fun s => fin (s.putSt i indefinite)
  else fin (s.putExact (s.phys i) (s.st 0))

/-- R206: empty registers become the indefinite, then the exchange. -/
def exchange (i : Fin 8) (s : State) : State :=
  let s := s.drawC320ClearC1
  let a := if s.stEmpty 0 then indefinite else s.st 0
  let b := if s.stEmpty i then indefinite else s.st i
  if s.stEmpty 0 || s.stEmpty i then s.faultThen false fun s => (s.putSt 0 b).putSt i a
  else (s.putSt 0 b).putSt i a

/-- FST ST(i) (R203). -/
def execFstSti (pfx : List Prefix) (i : Fin 8) (s : State) : Result := numReg (.fstSti pfx i) s (storeSt i id)

/-- FSTP ST(i) (R204): the register number is the one before TOP is incremented. -/
def execFstpSti (pfx : List Prefix) (i : Fin 8) (s : State) : Result :=
  numReg (.fstpSti pfx i) s (storeSt i State.pop)

/-- FXCH ST(i) (R206). -/
def execFxch (pfx : List Prefix) (i : Fin 8) (s : State) : Result := numReg (.fxch pfx i) s (exchange i)

/-! ## Stores to memory -/

/-- A store's masked response to an exception of the "before" kind: unmasked, nothing is stored and nothing popped
(R55, R403). -/
def State.respondStore (s : State) (x : Exc) (resp : State → Stored) : Stored :=
  if masked s.cw x then resp (s.raise x) else (s.raise x, none)

/-- The same for a stack underflow (R410). -/
def State.faultStore (s : State) (resp : State → Stored) : Stored :=
  if masked s.cw .ie then resp (s.stackFault false) else (s.stackFault false, none)

/-- The fraction of an infinity or a NaN, or of a zero, chopped to a format (R203 corner case 1). -/
def chopSpecial (f : Fmt) (x : Ext) : Nat :=
  f.assemble x.sign (if x.exp = 0 then 0 else 2 ^ f.expBits - 1) (x.sig.toNat % 2 ^ 63 / 2 ^ (63 - f.frac))

/-- The rest of `store_real` for a nonzero finite operand (R135, R203). -/
def storeFinite (f : Fmt) (x : Ext) (fin : State → State) (s : State) : Stored :=
  let d := deliverMem f s.cw s.params.tinyBefore x.sign x.mag s.rc
  match d.val with
  | none => (s.raiseAll d.flags, none)
  | some w => (fin ((s.raiseAll d.flags).setC1 d.c1), some (leBytes f.bytes w))

/-- `store_real` of R203; `fin` pops for FSTP once the store is certain (R204). -/
def storeReal (f : Fmt) (fin : State → State) (s : State) : Stored :=
  let s := s.drawC320
  let x := s.st 0
  if s.stEmpty 0 then s.faultStore fun s => (fin s, some (leBytes f.bytes f.indefinite))
  else
    match classify x with
    | .unsupported => s.respondStore .ie fun s => (fin (s.setC1 false), some (leBytes f.bytes f.indefinite))
    | .snan => s.respondStore .ie fun s => (fin (s.setC1 false), some (leBytes f.bytes (chopSpecial f (quiet x))))
    | .qnan => (fin (s.setC1 false), some (leBytes f.bytes (chopSpecial f x)))
    | .infinity => (fin (s.setC1 false), some (leBytes f.bytes (chopSpecial f x)))
    | .zero => (fin (s.setC1 false), some (leBytes f.bytes (chopSpecial f x)))
    | .denormal => s.respondStore .de (storeFinite f x fin)
    | .pseudodenormal => s.respondStore .de (storeFinite f x fin)
    | .normal => storeFinite f x fin s

/-- FSTP to an extended-real operand (R204): nonarithmetic, the 80 bits unchanged. -/
def storeExt (s : State) : Stored :=
  let s := s.drawC320ClearC1
  if s.stEmpty 0 then s.faultStore fun s => (s.pop, some (extBytes indefinite)) else (s.pop, some (extBytes (s.st 0)))

/-- The bits of an integer in two's complement, `n` bytes wide (R59). -/
def intBytes (n : Nat) (i : Int) : List Byte := leBytes n (BitVec.ofInt (8 * n) i).toNat

/-- Whether an integer fits `n` bytes in two's complement (R208). -/
def fitsInt (n : Nat) (i : Int) : Bool := decide (-(2 ^ (8 * n - 1) : Int) ≤ i) && decide (i ≤ 2 ^ (8 * n - 1) - 1)

/-- The integer indefinite of `n` bytes (R150). -/
def intIndefinite (n : Nat) : List Byte := leBytes n (2 ^ (8 * n - 1))

/-- A finite operand rounded to an integer (R131), without shifting by an exponent far above any destination: a
magnitude of `2^64` or more is an integer already, and out of range as it stands. -/
def roundStored (x : Ext) (rc : Rounding) : Rounded :=
  if 64 ≤ x.mag.log2 then { n := 2 ^ 64, k := 0, inexact := false, up := false } else roundInt x.sign rc x.mag

/-- Whether a store to an integer or decimal format is invalid whatever the value (R208, R211). -/
def notNumber (x : Ext) : Bool := x.isUnsupported || x.isNan || x.isInf

/-- `store_int` of R208 for `n` bytes; `fin` pops for FISTP (R209). -/
def storeInt (n : Nat) (fin : State → State) (s : State) : Stored :=
  let s := s.drawC320
  let x := s.st 0
  let r := roundStored x s.rc
  if s.stEmpty 0 then s.faultStore fun s => (fin s, some (intIndefinite n))
  else if notNumber x || !fitsInt n (signedInt x.sign r.n) then
    s.respondStore .ie fun s => (fin (s.setC1 false), some (intIndefinite n))
  else
    (fin ((s.raiseIf r.inexact .pe).setC1 r.up), some (intBytes n (signedInt x.sign r.n)))

/-- The packed-decimal indefinite (R150, U9): the two high bytes are FFH, the eight low ones UNDEFINED: drawn. -/
def State.storeBcdIndefinite (s : State) : Stored :=
  (s.drew.pop, some (leBytes 8 (s.drawn 64).toNat ++ [0xFF, 0xFF]))

/-- `FBSTP` of R211. -/
def storeBcd (s : State) : Stored :=
  let s := s.drawC320
  let x := s.st 0
  let r := roundStored x s.rc
  if s.stEmpty 0 then s.faultStore State.storeBcdIndefinite
  else if notNumber x || decide (10 ^ 18 - 1 < r.n) then
    s.respondStore .ie fun s => (s.setC1 false).storeBcdIndefinite
  else
    (((s.raiseIf r.inexact .pe).setC1 r.up).pop, some (leBytes 10 (x.sign.toNat * 2 ^ 79 + packDigits 18 r.n)))

/-- FST m32real (R203). -/
def execFstM32 (pfx : List Prefix) (m : MemOp) (s : State) : Result :=
  numStore (.fstM32 pfx m) m 4 s (storeReal .single id)

/-- FST m64real (R203). -/
def execFstM64 (pfx : List Prefix) (m : MemOp) (s : State) : Result :=
  numStore (.fstM64 pfx m) m 8 s (storeReal .double id)

/-- FSTP m32real (R204). -/
def execFstpM32 (pfx : List Prefix) (m : MemOp) (s : State) : Result :=
  numStore (.fstpM32 pfx m) m 4 s (storeReal .single State.pop)

/-- FSTP m64real (R204). -/
def execFstpM64 (pfx : List Prefix) (m : MemOp) (s : State) : Result :=
  numStore (.fstpM64 pfx m) m 8 s (storeReal .double State.pop)

/-- FSTP m80real (R204). -/
def execFstpM80 (pfx : List Prefix) (m : MemOp) (s : State) : Result :=
  numStore (.fstpM80 pfx m) m 10 s storeExt

/-- FIST m16int (R208). -/
def execFistI16 (pfx : List Prefix) (m : MemOp) (s : State) : Result :=
  numStore (.fistI16 pfx m) m 2 s (storeInt 2 id)

/-- FIST m32int (R208). -/
def execFistI32 (pfx : List Prefix) (m : MemOp) (s : State) : Result :=
  numStore (.fistI32 pfx m) m 4 s (storeInt 4 id)

/-- FISTP m16int (R209). -/
def execFistpI16 (pfx : List Prefix) (m : MemOp) (s : State) : Result :=
  numStore (.fistpI16 pfx m) m 2 s (storeInt 2 State.pop)

/-- FISTP m32int (R209). -/
def execFistpI32 (pfx : List Prefix) (m : MemOp) (s : State) : Result :=
  numStore (.fistpI32 pfx m) m 4 s (storeInt 4 State.pop)

/-- FISTP m64int (R209). -/
def execFistpI64 (pfx : List Prefix) (m : MemOp) (s : State) : Result :=
  numStore (.fistpI64 pfx m) m 8 s (storeInt 8 State.pop)

/-- FBSTP (R211). -/
def execFbstp (pfx : List Prefix) (m : MemOp) (s : State) : Result :=
  numStore (.fbstp pfx m) m 10 s storeBcd

end Sys2Proof.Machine
end

