-- ==== Sys2Proof/Machine/Constants.lean ====
section
/-! DEFINITION. The constant instructions (R321 to R328). -/

namespace Sys2Proof.Machine

/-- A positive constant by the table of R321 (d): its biased exponent, and 80 bits of its expansion, the 64 bits of the
chopped significand and the next 16; what follows is not zero. -/
def constMag (biased : Nat) (bits80 : Nat) : Mag := { n := bits80, k := (biased : Int) - 16383 - 79, more := true }

/-- The internal pi (R324). -/
def constPi : Mag := constMag 0x4000 0xC90FDAA22168C234C4C6
/-- log2 10 (R325). -/
def constL2t : Mag := constMag 0x4000 0xD49A784BCD1B8AFE492B
/-- log2 e (R326). -/
def constL2e : Mag := constMag 0x3FFF 0xB8AA3B295C17F0BBBE87
/-- log10 2 (R327). -/
def constLg2 : Mag := constMag 0x3FFD 0x9A209A84FBCFF7988F89
/-- loge 2 (R328). -/
def constLn2 : Mag := constMag 0x3FFE 0xB17217F7D1CF79ABC9E3

/-- The constant rounded to 64 bits under RC (R321 (b)). -/
def constExt (c : Mag) (rc : Rounding) : Ext := pack false (roundTo false rc c 64)

/-- `load_const` of R321 for an irrational constant: rounded, and neither PE nor C1 says so. -/
def loadConst (c : Mag) (s : State) : State := loadPlain (constExt c s.rc) s

/-- FLDZ (R322). -/
def execFldz (pfx : List Prefix) (s : State) : Result := numReg (.fldz pfx) s (loadPlain (zeroExt false))
/-- FLD1 (R323). -/
def execFld1 (pfx : List Prefix) (s : State) : Result := numReg (.fld1 pfx) s (loadPlain (oneExt false))
/-- FLDPI (R324). -/
def execFldpi (pfx : List Prefix) (s : State) : Result := numReg (.fldpi pfx) s (loadConst constPi)
/-- FLDL2T (R325). -/
def execFldl2t (pfx : List Prefix) (s : State) : Result := numReg (.fldl2t pfx) s (loadConst constL2t)
/-- FLDL2E (R326). -/
def execFldl2e (pfx : List Prefix) (s : State) : Result := numReg (.fldl2e pfx) s (loadConst constL2e)
/-- FLDLG2 (R327). -/
def execFldlg2 (pfx : List Prefix) (s : State) : Result := numReg (.fldlg2 pfx) s (loadConst constLg2)
/-- FLDLN2 (R328). -/
def execFldln2 (pfx : List Prefix) (s : State) : Result := numReg (.fldln2 pfx) s (loadConst constLn2)

end Sys2Proof.Machine
end

