-- ==== Sys2Proof/Machine/Control.lean ====
section
/-! DEFINITION. The processor control instructions and WAIT (R330 to R360), and the images of environment and state
(R70 to R76). -/

namespace Sys2Proof.Machine

/-! ## The images (R70 to R76) -/

/-- The four formats of R70, by mode and operand size; virtual-8086 mode uses the real-address ones. -/
inductive ImageFormat where
  | real32 | prot32 | real16 | prot16
deriving DecidableEq, Repr

/-- The format in force for an instruction with these prefixes (R70, R91 (c)). -/
def State.imageFormat (s : State) (pfx : List Prefix) : ImageFormat :=
  if opSize32 s.code32 pfx then if s.mode = .prot then .prot32 else .real32
  else if s.mode = .prot then .prot16 else .real16

/-- The size of the environment image (R70). -/
def ImageFormat.envSize : ImageFormat → Nat
  | .real32 => 28
  | .prot32 => 28
  | .real16 => 14
  | .prot16 => 14

/-- The size of the state image (R70, R75): the environment and eight registers. -/
def ImageFormat.stateSize (f : ImageFormat) : Nat := f.envSize + 80

/-- A pointer as a linear address (R71, R76). -/
def FarPtr.linear (p : FarPtr) : Nat := (p.sel.toNat * 16 + p.off.toNat) % 2 ^ 32

/-- The tag of a physical register as FSTENV and FSAVE compute it (R29). -/
def State.tag (s : State) (k : Fin 8) : Nat := if s.isEmpty k then 3 else tagOf (s.reg k)

/-- The tag word: register `k` in bits `2k + 1` and `2k` (R27, D2). -/
def State.tagWord (s : State) : Nat := ((List.finRange 8).map fun k => s.tag k * 4 ^ k.val).sum

/-- The `j`-th word of drawn bits, for the reserved fields (U7). -/
def reservedWord (d : BitVec 80) (j : Nat) : List Byte := leBytes 2 (d.extractLsb' (16 * j) 16).toNat

/-- The bytes of the environment image (R71 to R74), reserved fields from the drawn bits `d`. -/
def State.envBytes (s : State) (d : BitVec 80) : ImageFormat → List Byte
  | .real32 =>
    let ip := FarPtr.linear s.fip
    let op := FarPtr.linear s.fdp
    leBytes 2 s.cw.toNat ++ reservedWord d 0 ++ leBytes 2 s.sw.toBits.toNat ++ reservedWord d 1
      ++ leBytes 2 s.tagWord ++ reservedWord d 2 ++ leBytes 2 ip ++ reservedWord d 3
      ++ leBytes 4 (ip / 2 ^ 16 * 2 ^ 12 + s.fop.toNat) ++ leBytes 2 op ++ reservedWord d 4
      ++ leBytes 4 (op / 2 ^ 16 * 2 ^ 12)
  | .prot32 =>
    leBytes 2 s.cw.toNat ++ reservedWord d 0 ++ leBytes 2 s.sw.toBits.toNat ++ reservedWord d 1
      ++ leBytes 2 s.tagWord ++ reservedWord d 2 ++ leBytes 4 s.fip.off.toNat ++ leBytes 2 s.fip.sel.toNat
      ++ reservedWord d 3 ++ leBytes 4 s.fdp.off.toNat ++ leBytes 2 s.fdp.sel.toNat ++ reservedWord d 4
  | .real16 =>
    let ip := FarPtr.linear s.fip
    let op := FarPtr.linear s.fdp
    leBytes 2 s.cw.toNat ++ leBytes 2 s.sw.toBits.toNat ++ leBytes 2 s.tagWord ++ leBytes 2 ip
      ++ leBytes 2 (ip / 2 ^ 16 % 16 * 2 ^ 12 + s.fop.toNat) ++ leBytes 2 op
      ++ leBytes 2 (op / 2 ^ 16 % 16 * 2 ^ 12)
  | .prot16 =>
    leBytes 2 s.cw.toNat ++ leBytes 2 s.sw.toBits.toNat ++ leBytes 2 s.tagWord ++ leBytes 2 s.fip.off.toNat
      ++ leBytes 2 s.fip.sel.toNat ++ leBytes 2 s.fdp.off.toNat ++ leBytes 2 s.fdp.sel.toNat

/-- The eight registers in stack order (R75). -/
def State.stackBytes (s : State) : List Byte := (List.finRange 8).flatMap fun i => extBytes (s.st i)

/-- A little-endian field of an image. -/
def field (bs : List Byte) (off n : Nat) : Nat := leNat ((bs.drop off).take n)

/-- The pointer a real-mode image gives: no selector, the linear address as the offset (R76, D12). -/
def linearPtr (n : Nat) : FarPtr := ⟨0, BitVec.ofNat 32 n⟩

/-- A pointer of selector and offset. -/
def selPtr (sel off : Nat) : FarPtr := ⟨BitVec.ofNat 16 sel, BitVec.ofNat 32 off⟩

/-- FIP, FDP and FOP loaded from an image; a protected-mode image holds no FOP (R76). -/
def State.loadPointers (s : State) (bs : List Byte) : ImageFormat → State
  | .real32 =>
    { s with
      fip := linearPtr (field bs 12 2 + field bs 16 4 / 2 ^ 12 % 2 ^ 16 * 2 ^ 16)
      fdp := linearPtr (field bs 20 2 + field bs 24 4 / 2 ^ 12 % 2 ^ 16 * 2 ^ 16)
      fop := BitVec.ofNat 11 (field bs 16 4) }
  | .prot32 => { s with fip := selPtr (field bs 16 2) (field bs 12 4), fdp := selPtr (field bs 24 2) (field bs 20 4) }
  | .real16 =>
    { s with
      fip := linearPtr (field bs 6 2 + field bs 8 2 / 2 ^ 12 * 2 ^ 16)
      fdp := linearPtr (field bs 10 2 + field bs 12 2 / 2 ^ 12 * 2 ^ 16)
      fop := BitVec.ofNat 11 (field bs 8 2) }
  | .prot16 => { s with fip := selPtr (field bs 8 2) (field bs 6 2), fdp := selPtr (field bs 12 2) (field bs 10 2) }

/-- How far apart CW, SW and TW stand in an image (R71 to R74). -/
def ImageFormat.slot : ImageFormat → Nat
  | .real32 => 4
  | .prot32 => 4
  | .real16 => 2
  | .prot16 => 2

/-- The environment loaded from an image (R76): ES and B from flags and masks, each tag only as empty or not. -/
def State.loadEnv (s : State) (f : ImageFormat) (bs : List Byte) : State :=
  let s := s.loadWords (BitVec.ofNat 16 (field bs 0 2)) (.ofBits (BitVec.ofNat 16 (field bs f.slot 2)))
  State.loadPointers
    { s with empty := Vector.ofFn fun k => field bs (2 * f.slot) 2 / 4 ^ k.val % 4 == 3 } bs f

/-- The eight registers loaded in stack order, after TOP (R75, R341). -/
def State.loadStack (s : State) (bs : List Byte) : State :=
  { s with regs := Vector.ofFn fun k => extOfBytes ((bs.drop (10 * (k - s.sw.top).val)).take 10) }

/-! ## Initialisation, control word, status word -/

/-- FNINIT (R330). -/
def execFninit (pfx : List Prefix) (s : State) : Result :=
  escReg .noWait (.fninit pfx) s fun s => .next (State.advance { s.initNpx with overrun := false } (.fninit pfx))

/-- FLDCW (R332). -/
def execFldcw (pfx : List Prefix) (m : MemOp) (s : State) : Result :=
  escLoad .loadControl (.fldcw pfx m) m 2 s fun bs s =>
    .next ((s.drawC3210.loadWords (BitVec.ofNat 16 (leNat bs)) s.drawC3210.sw).advance (.fldcw pfx m))

/-- FNSTCW (R333). -/
def execFnstcw (pfx : List Prefix) (m : MemOp) (s : State) : Result :=
  escStore .noWait (.fnstcw pfx m) m 2 s fun s => (s.drawC3210, some (leBytes 2 s.cw.toNat))

/-- FNSTSW m16 (R334): the word stored is the one from before. -/
def execFnstswM16 (pfx : List Prefix) (m : MemOp) (s : State) : Result :=
  escStore .noWait (.fnstswM16 pfx m) m 2 s fun s => (s.drawC3210, some (leBytes 2 s.sw.toBits.toNat))

/-- FNSTSW AX (R335). -/
def execFnstswAx (pfx : List Prefix) (s : State) : Result :=
  escReg .noWait (.fnstswAx pfx) s fun s => .next ((s.drawC3210.setAx s.sw.toBits).advance (.fnstswAx pfx))

/-- The status word without its six flags, SF, ES and B (R336). -/
def StatusWord.clearExceptions (w : StatusWord) : StatusWord :=
  { w with busy := false, es := false, sf := false, pe := false, ue := false, oe := false, ze := false,
           de := false, ie := false }

/-- FNCLEX (R336). -/
def execFnclex (pfx : List Prefix) (s : State) : Result :=
  escReg .noWait (.fnclex pfx) s fun s =>
    .next ((s.drawC3210.setSw s.drawC3210.sw.clearExceptions).advance (.fnclex pfx))

/-! ## State and environment -/

/-- FNSTENV's effect after its store (R342): all masks set, no flag unmasked. -/
def State.maskAll (s : State) : State := s.loadWords (s.cw ||| 0x3F) s.sw

/-- FNSTENV (R342). -/
def execFnstenv (pfx : List Prefix) (m : MemOp) (s : State) : Result :=
  escStore .saveImage (.fnstenv pfx m) m (s.imageFormat pfx).envSize s fun s =>
    (s.drew.drawC3210.maskAll, some (s.envBytes (s.drawn 80) (s.imageFormat pfx)))

/-- FLDENV (R343). -/
def execFldenv (pfx : List Prefix) (m : MemOp) (s : State) : Result :=
  escLoad .restore (.fldenv pfx m) m (s.imageFormat pfx).envSize s fun bs s =>
    .next ((s.loadEnv (s.imageFormat pfx) bs).advance (.fldenv pfx m))

/-- FNSAVE (R340): the image, then as FNINIT. -/
def execFnsave (pfx : List Prefix) (m : MemOp) (s : State) : Result :=
  escStore .saveImage (.fnsave pfx m) m (s.imageFormat pfx).stateSize s fun s =>
    (s.drew.initNpx, some (s.envBytes (s.drawn 80) (s.imageFormat pfx) ++ s.stackBytes))

/-- FRSTOR (R341). -/
def execFrstor (pfx : List Prefix) (m : MemOp) (s : State) : Result :=
  escLoad .restore (.frstor pfx m) m (s.imageFormat pfx).stateSize s fun bs s =>
    .next
      (((s.loadEnv (s.imageFormat pfx) bs).loadStack (bs.drop (s.imageFormat pfx).envSize)).advance (.frstor pfx m))

/-! ## Stack pointer, tags, no operation -/

/-- FINCSTP (R346). -/
def execFincstp (pfx : List Prefix) (s : State) : Result :=
  numReg (.fincstp pfx) s fun s => s.drawC320ClearC1.setTop (s.sw.top + 1)

/-- FDECSTP (R347). -/
def execFdecstp (pfx : List Prefix) (s : State) : Result :=
  numReg (.fdecstp pfx) s fun s => s.drawC320ClearC1.setTop (s.sw.top - 1)

/-- FFREE ST(i) (R348). -/
def execFfree (pfx : List Prefix) (i : Fin 8) (s : State) : Result :=
  numReg (.ffree pfx i) s fun s => s.freeReg (s.phys i)

/-- FNOP (R349). -/
def execFnop (pfx : List Prefix) (s : State) : Result := numReg (.fnop pfx) s id
/-- FENI (R350): as FNOP (D29). -/
def execFeni (pfx : List Prefix) (s : State) : Result := numReg (.feni pfx) s id
/-- FDISI (R350): as FNOP (D29). -/
def execFdisi (pfx : List Prefix) (s : State) : Result := numReg (.fdisi pfx) s id
/-- FSETPM (R350): as FNOP (D29). -/
def execFsetpm (pfx : List Prefix) (s : State) : Result := numReg (.fsetpm pfx) s id

/-! ## WAIT -/

/-- WAIT (R360, R425, R430): interrupt 7 only when MP and TS are both set, then interrupt 16 when ERROR# is active,
whatever EM is.  That R446's "does not trap" is read as interrupt 7 not being taken is DEDUCED (assumption 31).  Every
earlier numeric instruction is complete (D28), so nothing is waited for. -/
def execWait (pfx : List Prefix) (s : State) : Result :=
  if s.cr0.mp && s.cr0.ts then .next (s.takeTrap .notAvailable)
  else if s.sw.es then .next (s.synced.takeTrap .numericError)
  else .next (s.synced.advance (.wait pfx))

end Sys2Proof.Machine
end

