-- ==== Sys2Proof/Machine/Reserved.lean ====
section
/-! DEFINITION. The reserved ESC encodings (R105): the processor's own tests come first, and an encoding that reaches
the numeric processor is a fault (D18, U8). -/

namespace Sys2Proof.Machine

/-- A reserved encoding (R105): interrupt 7 and interrupt 16 as for every ESC instruction (R425, R430), then the
fault. -/
def reservedEsc (s : State) : Result := escStart .numeric s fun _ => .fault .reservedEncoding

/-- D9H /1 (R105). -/
def execReservedD9Mem1 (_ : List Prefix) (_ : MemOp) (s : State) : Result := reservedEsc s
/-- D9 D1 (R105). -/
def execReservedD9D1 (_ : List Prefix) (s : State) : Result := reservedEsc s
/-- D9 D2 to D3 (R105). -/
def execReservedD9D2 (_ : List Prefix) (_ : Fin 2) (s : State) : Result := reservedEsc s
/-- D9 D4 to D7 (R105). -/
def execReservedD9D4 (_ : List Prefix) (_ : Fin 4) (s : State) : Result := reservedEsc s
/-- D9 D8 to DF (R105). -/
def execReservedD9D8 (_ : List Prefix) (_ : Fin 8) (s : State) : Result := reservedEsc s
/-- D9 E2 (R105). -/
def execReservedD9E2 (_ : List Prefix) (s : State) : Result := reservedEsc s
/-- D9 E3 (R105). -/
def execReservedD9E3 (_ : List Prefix) (s : State) : Result := reservedEsc s
/-- D9 E6 (R105). -/
def execReservedD9E6 (_ : List Prefix) (s : State) : Result := reservedEsc s
/-- D9 E7 (R105). -/
def execReservedD9E7 (_ : List Prefix) (s : State) : Result := reservedEsc s
/-- D9 EF (R105). -/
def execReservedD9EF (_ : List Prefix) (s : State) : Result := reservedEsc s
/-- DA C0 to DF (R105). -/
def execReservedDAC0 (_ : List Prefix) (_ : Fin 32) (s : State) : Result := reservedEsc s
/-- DA E0 to E7 (R105). -/
def execReservedDAE0 (_ : List Prefix) (_ : Fin 8) (s : State) : Result := reservedEsc s
/-- DA E8 (R105). -/
def execReservedDAE8 (_ : List Prefix) (s : State) : Result := reservedEsc s
/-- DA EA to EB (R105). -/
def execReservedDAEA (_ : List Prefix) (_ : Fin 2) (s : State) : Result := reservedEsc s
/-- DA EC to EF (R105). -/
def execReservedDAEC (_ : List Prefix) (_ : Fin 4) (s : State) : Result := reservedEsc s
/-- DA F0 to FF (R105). -/
def execReservedDAF0 (_ : List Prefix) (_ : Fin 16) (s : State) : Result := reservedEsc s
/-- DBH /1 (R105). -/
def execReservedDBMem1 (_ : List Prefix) (_ : MemOp) (s : State) : Result := reservedEsc s
/-- DBH /4 (R105). -/
def execReservedDBMem4 (_ : List Prefix) (_ : MemOp) (s : State) : Result := reservedEsc s
/-- DBH /6 (R105). -/
def execReservedDBMem6 (_ : List Prefix) (_ : MemOp) (s : State) : Result := reservedEsc s
/-- DB C0 to DF (R105). -/
def execReservedDBC0 (_ : List Prefix) (_ : Fin 32) (s : State) : Result := reservedEsc s
/-- DB E5 (R105). -/
def execReservedDBE5 (_ : List Prefix) (s : State) : Result := reservedEsc s
/-- DB E6 to E7 (R105). -/
def execReservedDBE6 (_ : List Prefix) (_ : Fin 2) (s : State) : Result := reservedEsc s
/-- DB E8 to EF (R105). -/
def execReservedDBE8 (_ : List Prefix) (_ : Fin 8) (s : State) : Result := reservedEsc s
/-- DB F0 to FF (R105). -/
def execReservedDBF0 (_ : List Prefix) (_ : Fin 16) (s : State) : Result := reservedEsc s
/-- DC D0 to DF (R105). -/
def execReservedDCD0 (_ : List Prefix) (_ : Fin 16) (s : State) : Result := reservedEsc s
/-- DDH /1 (R105). -/
def execReservedDDMem1 (_ : List Prefix) (_ : MemOp) (s : State) : Result := reservedEsc s
/-- DDH /5 (R105). -/
def execReservedDDMem5 (_ : List Prefix) (_ : MemOp) (s : State) : Result := reservedEsc s
/-- DD C8 to CF (R105). -/
def execReservedDDC8 (_ : List Prefix) (_ : Fin 8) (s : State) : Result := reservedEsc s
/-- DD F0 to FF (R105). -/
def execReservedDDF0 (_ : List Prefix) (_ : Fin 16) (s : State) : Result := reservedEsc s
/-- DE D0 to D7 (R105). -/
def execReservedDED0 (_ : List Prefix) (_ : Fin 8) (s : State) : Result := reservedEsc s
/-- DE D8 (R105). -/
def execReservedDED8 (_ : List Prefix) (s : State) : Result := reservedEsc s
/-- DE DA to DB (R105). -/
def execReservedDEDA (_ : List Prefix) (_ : Fin 2) (s : State) : Result := reservedEsc s
/-- DE DC to DF (R105). -/
def execReservedDEDC (_ : List Prefix) (_ : Fin 4) (s : State) : Result := reservedEsc s
/-- DFH /1 (R105). -/
def execReservedDFMem1 (_ : List Prefix) (_ : MemOp) (s : State) : Result := reservedEsc s
/-- DF C0 to DF (R105). -/
def execReservedDFC0 (_ : List Prefix) (_ : Fin 32) (s : State) : Result := reservedEsc s
/-- DF E1 (R105). -/
def execReservedDFE1 (_ : List Prefix) (s : State) : Result := reservedEsc s
/-- DF E2 to E3 (R105). -/
def execReservedDFE2 (_ : List Prefix) (_ : Fin 2) (s : State) : Result := reservedEsc s
/-- DF E4 to E7 (R105). -/
def execReservedDFE4 (_ : List Prefix) (_ : Fin 4) (s : State) : Result := reservedEsc s
/-- DF E8 to EF (R105). -/
def execReservedDFE8 (_ : List Prefix) (_ : Fin 8) (s : State) : Result := reservedEsc s
/-- DF F0 to FF (R105). -/
def execReservedDFF0 (_ : List Prefix) (_ : Fin 16) (s : State) : Result := reservedEsc s

end Sys2Proof.Machine
end

