-- ==== Sys2Proof/Machine/TransReference.lean ====
section
/-! DEFINITION. The functions of the transcendental instructions, enclosed far more closely than a register can tell, and
the choice of a delivered value among all those that the spec's bound allows (R300, R301 (d), D6; assumption 21).

A function's value is enclosed between two numbers whose relative distance is below `2^-600`, by fixed-point sums of its
power series.  The enclosures fix no result: they only tell which values of at most 64 bits lie within `2^-62` of the
function, and which of these the part delivers is a free value of Config. -/

namespace Sys2Proof

open Config (TransOp)

/-- The fraction bits of the fixed-point numbers below. -/
def refBits : Nat := 768

/-- One, in fixed point. -/
def refOne : Nat := 2 ^ refBits

/-- More than the error of any fixed-point sum below. -/
def refSlack : Nat := 2 ^ 28

/-- `floor (pi * 2^1024)`. -/
def piBits : Nat :=
  0x3243f6a8885a308d313198a2e03707344a4093822299f31d0082efa98ec4e6c89452821e638d01377be5466cf34e90c6cc0ac29b7c97c50dd3f84d5b5b54709179216d5d98979fb1bd1310ba698dfb5ac2ffd72dbd01adfb7b8e1afed6a267e96ba7c9045f12c7f9924a19947b3916cf70801f2e2858efc16636920d871574e69

/-- `floor (ln 2 * 2^768)`. -/
def ln2Bits : Nat :=
  0xb17217f7d1cf79abc9e3b39803f2f6af40f343267298b62d8a0d175b8baafa2be7b876206debac98559552fb4afa1b10ed2eae35c138214427573b291169b8253e96ca16224ae8c51acbda11317c387eb9ea9bc3b136603b256fa0ec7657f74b

/-- `1 / ln 2` times `2^768`. -/
def log2eBits : Nat := 2 ^ 1536 / ln2Bits

/-- The constant pi as a magnitude. -/
def piMag : Mag := { n := piBits, k := -1024, more := true }

/-- The constant one as a magnitude. -/
def oneMag : Mag := { n := 1, k := 0 }

/-- A magnitude in fixed point, chopped. -/
def fixOf (m : Mag) : Nat := (splitAt m (-(refBits : Int))).1

def fixMul (a b : Nat) : Nat := (a * b) >>> refBits
def fixDiv (a b : Nat) : Nat := (a <<< refBits) / b

/-- The quotient of two nonzero magnitudes below `2^64` times a power of two, in fixed point, chopped. -/
def fixRatio (a b : Mag) : Nat := fixOf { n := (a.n <<< 832) / b.n, k := a.k - 832 - b.k }

/-! ## The power series -/

/-- `term - term r2 / ((j+1)(j+2)) + …` for `r2 = r^2`: from `term = 1` the cosine (`j = 0`), or the sine over `r`
(`j = 1`). -/
def circularSeries (r2 : Nat) : Nat → Nat → Nat → Nat
  | 0, _, _ => 0
  | fuel + 1, j, term => term - circularSeries r2 fuel (j + 2) (fixMul term r2 / ((j + 1) * (j + 2)))

/-- `term ± term u / (j+1) + …`: from `j = 1` and `term = 1`, `(e^u - 1) / u`, or `(1 - e^-u) / u` (`neg`). -/
def expSeries (neg : Bool) (u : Nat) : Nat → Nat → Nat → Nat
  | 0, _, _ => 0
  | fuel + 1, j, term =>
    let rest := expSeries neg u fuel (j + 1) (fixMul term u / (j + 1))
    if neg then term - rest else term + rest

/-- `power / j ± power z2 / (j+2) + …` for `z2 = z^2`: from `j = 1` and `power = 1`, the inverse tangent over `z`
(`alt`), or its hyperbolic counterpart. -/
def atanSeries (alt : Bool) (z2 : Nat) : Nat → Nat → Nat → Nat
  | 0, _, _ => 0
  | fuel + 1, j, power =>
    let rest := atanSeries alt z2 fuel (j + 2) (fixMul power z2)
    if alt then power / j - rest else power / j + rest

/-- `sin r / r`. -/
def fixSinc (r : Nat) : Nat := circularSeries (fixMul r r) 80 1 refOne

/-- `cos r`. -/
def fixCos (r : Nat) : Nat := circularSeries (fixMul r r) 80 0 refOne

/-- `(2^x - 1) / x` for `x = u`, or for `x = -u` (`neg`), of magnitude up to 1. -/
def fixExp (neg : Bool) (u : Nat) : Nat := fixMul ln2Bits (expSeries neg (fixMul u ln2Bits) 160 1 refOne)

/-- `log2 (1 + x) / x` for `x = u` up to 1/2, or for `x = -u` (`neg`) down to -0.3: with `z = x / (2 + x)` the logarithm
is `2 atanh z / ln 2`. -/
def fixLog (neg : Bool) (u : Nat) : Nat :=
  let d := if neg then 2 * refOne - u else 2 * refOne + u
  let z := fixDiv u d
  fixDiv (fixMul (2 * log2eBits) (atanSeries false (fixMul z z) 180 1 refOne)) d

/-- `tan (a / 2) / tan a` for `tan a = z`. -/
def fixHalf (z : Nat) : Nat := fixDiv refOne (refOne + isqrt (refOne * refOne + z * z))

/-- `arctan z / z` for `z` up to 1: eight times that of an eighth of the angle. -/
def fixAtan (z : Nat) : Nat :=
  let g := fixHalf z
  let g' := fixMul g (fixHalf (fixMul z g))
  let g'' := fixMul g' (fixHalf (fixMul z g'))
  let w := fixMul z g''
  8 * fixMul g'' (atanSeries true (fixMul w w) 130 1 refOne)

/-! ## Enclosures -/

/-- What is known of a function's value: its sign, and that its magnitude is `num / den` times a fixed-point number from
`lo` to `hi`.  The factor `num / den` is exact, so a value close to zero is known as closely as any other. -/
structure Bracket where
  neg : Bool := false
  num : Mag := oneMag
  den : Mag := oneMag
  lo : Nat
  hi : Nat
deriving DecidableEq, Repr

/-- The lower end, times `den`. -/
def Bracket.lower (b : Bracket) : Mag := b.num.mul { n := b.lo, k := -(refBits : Int) }

/-- The upper end, times `den`. -/
def Bracket.upper (b : Bracket) : Mag := b.num.mul { n := b.hi, k := -(refBits : Int) }

/-- A value known exactly. -/
def Bracket.exact (m : Nat) : Bracket := { lo := m, hi := m }

/-- A value computed by the sums above. -/
def Bracket.around (m : Nat) : Bracket := { lo := m - refSlack, hi := m + refSlack }

/-- A bracket of a factor that is at most one. -/
def Bracket.atMostOne (b : Bracket) : Bracket := { b with hi := min b.hi refOne }

/-- A bracket of a factor that is at least one. -/
def Bracket.atLeastOne (b : Bracket) : Bracket := { b with lo := max b.lo refOne }

/-- The product with an exact signed factor. -/
def Bracket.times (b : Bracket) (neg : Bool) (m : Mag) : Bracket := { b with neg := b.neg != neg, num := b.num.mul m }

/-- The quotient of two brackets. -/
def Bracket.over (a b : Bracket) : Bracket :=
  { neg := a.neg != b.neg, num := a.num.mul b.den, den := a.den.mul b.num, lo := fixDiv a.lo b.hi,
    hi := fixDiv a.hi b.lo + 1 }

/-! ## The functions -/

/-- `2^x - 1` for `|x| ≤ 1` (R310), which at 1 and -1 is exact. -/
def refExp (neg : Bool) (x : Mag) : Bracket :=
  if x.cmp oneMag = .eq then { Bracket.exact (if neg then refOne / 2 else refOne) with neg := neg }
  else (Bracket.around (fixExp neg (fixOf x))).times neg x

/-- `log2 (1 + x)` for `|x|` below 0.3 (R312). -/
def refLog1p (neg : Bool) (x : Mag) : Bracket := (Bracket.around (fixLog neg (fixOf x))).times neg x

/-- `log2 x` (R311): `x = 2^e (1 + d)` with `d` from -1/4 to 1/2.  Of a power of two it is exact, and close to 1 it is
`d` times a factor. -/
def refLog2 (x : Mag) : Bracket :=
  let f := x.scale (-x.log2)
  let low := decide (2 * fixOf f < 3 * refOne)
  let e := if low then x.log2 else x.log2 + 1
  let d := Mag.addSigned false (if low then f else f.scale (-1)) true oneMag
  let l := refLog1p d.1 d.2
  if e = 0 then l
  else if d.2.n = 0 then { Bracket.exact (e.natAbs * refOne) with neg := decide (e < 0) }
  else
    let c := (fixMul (fixOf d.2) (fixLog d.1 (fixOf d.2)) : Int)
    { Bracket.around (e * refOne + (if d.1 then -c else c)).natAbs with neg := decide (e < 0) }

/-- pi times `2^-j` in fixed point. -/
def fixPi (j : Nat) : Nat := piBits >>> (1024 - refBits + j)

/-- `|atan2 (y, x)|` (R309) for nonzero finite operands. -/
def refAtan2 (y : Mag) (xneg : Bool) (x : Mag) : Bracket :=
  if y.cmp x = .gt then
    let z := fixRatio x y
    let a := fixMul z (fixAtan z)
    .around (if xneg then fixPi 1 + a else fixPi 1 - a)
  else
    let z := fixRatio y x
    if xneg then .around (fixPi 0 - fixMul z (fixAtan z))
    else { (Bracket.around (fixAtan z)).atMostOne with num := y, den := x }

/-! ## The trigonometric reduction (R301 (d)) -/

/-- `pi / 2` times `2^1024`: the exact one, or twice the stored pi/4 of 67 significant bits. -/
def halfPeriod (stored : Bool) : Nat :=
  if stored then ((piBits >>> 959) + Config.quarterPiAbove.toNat) <<< 958 else piBits >>> 1

/-- An angle reduced to within half a half period: the number of half periods taken off, and the signed distance that is
left, in fixed point. -/
structure Angle where
  turns : Nat
  neg : Bool
  r : Nat
deriving DecidableEq, Repr

/-- Whether a magnitude is below pi/4. -/
def belowQuarterPi (x : Mag) : Bool := decide (x.log2 < 0) && decide ((splitAt x (-1024)).1 ≤ piBits / 4)

/-- The reduction of an angle, by the exact period or by the stored one; below pi/4 nothing is taken off (R301 (d)). -/
def reduceAngle (stored : Bool) (x : Mag) : Angle :=
  let h := halfPeriod (stored && !belowQuarterPi x)
  let a := (splitAt x (-1024)).1
  let q := (2 * a + h) / (2 * h)
  let neg := decide (a < q * h)
  { turns := q, neg := neg, r := (if neg then q * h - a else a - q * h) >>> (1024 - refBits) }

/-- The sine of the reduced angle: of an angle that is not reduced, the operand times a factor up to one. -/
def Angle.sinPart (a : Angle) (x : Mag) : Bracket :=
  if a.turns = 0 then (Bracket.around (fixSinc a.r)).atMostOne.times false x
  else { Bracket.around (fixMul a.r (fixSinc a.r)) with neg := a.neg }

/-- The cosine of the reduced angle. -/
def Angle.cosPart (a : Angle) : Bracket := (Bracket.around (fixCos a.r)).atMostOne

/-- The sine of an angle from the sine and the cosine of what is left after `q` half periods. -/
def sinAt (q : Nat) (sin cos : Bracket) : Bracket :=
  match q % 4 with
  | 0 => sin
  | 1 => cos
  | 2 => { sin with neg := !sin.neg }
  | _ => { cos with neg := !cos.neg }

/-- `sin x` for positive `x`. -/
def refSin (stored : Bool) (x : Mag) : Bracket :=
  let a := reduceAngle stored x
  sinAt a.turns (a.sinPart x) a.cosPart

/-- `cos x`. -/
def refCos (stored : Bool) (x : Mag) : Bracket :=
  let a := reduceAngle stored x
  sinAt (a.turns + 1) (a.sinPart x) a.cosPart

/-- `tan x` for positive `x`; of an angle that is not reduced it is the operand times a factor of one or more. -/
def refTan (stored : Bool) (x : Mag) : Bracket :=
  let t := (refSin stored x).over (refCos stored x)
  if (reduceAngle stored x).turns = 0 then t.atLeastOne else t

/-- The function of an instruction on its operands (R300 (b)), its sign with it.  For a trigonometric operand of pi/4 or
more it is the function with the exact period or the one with the stored period (R301 (d), D6), and the sign is that
function's own: next to a multiple of pi the sign with the stored period can differ from that of the sine of the operand,
which R302 names.  That the sign follows the reference is the model's choice (DESIGN CHOICE, assumption 21). -/
def transReference (op : TransOp) (y x : Ext) (stored : Bool) : Bracket :=
  match op with
  | .fsin => (refSin stored x.mag).times x.sign oneMag
  | .fsincosSin => (refSin stored x.mag).times x.sign oneMag
  | .fcos => refCos stored x.mag
  | .fsincosCos => refCos stored x.mag
  | .fptan => (refTan stored x.mag).times x.sign oneMag
  | .fpatan => { refAtan2 y.mag x.sign x.mag with neg := y.sign }
  | .f2xm1 => refExp x.sign x.mag
  | .fyl2x => (refLog2 x.mag).times y.sign y.mag
  | .fyl2xp1 => (refLog1p x.sign x.mag).times y.sign y.mag

/-! ## The value -/

/-- Whether a value lies within the relative error `2^-62` of the function (R300 (b)), whatever number of its bracket the
function is: every value within the bound passes. -/
def withinBound (b : Bracket) (v : Mag) : Bool :=
  (b.lower.mul { n := 2 ^ 62 - 1, k := -62 }).cmp (v.mul b.den) == .lt
    && (v.mul b.den).cmp (b.upper.mul { n := 2 ^ 62 + 1, k := -62 }) == .lt

/-- The lower end of a bracket, chopped to 64 significant bits. -/
def choppedLower (b : Bracket) : Mag :=
  let w := b.den.n.log2 + 128
  let q : Mag := { n := (b.lower.n <<< w) / b.den.n, k := b.lower.k - w - b.den.k }
  let t := q.log2 - 63
  { n := (splitAt q t).1, k := t }

/-- The value `n * 2^k` of 64 bits that is offered, where it lies within the bound, and else one that does. -/
def Bracket.choose (b : Bracket) (offer : BitVec 64 × Int) : Mag :=
  if withinBound b { n := offer.1.toNat, k := offer.2 } then { n := offer.1.toNat, k := offer.2 } else choppedLower b

/-- `TRANS` of R300 (b): the sign and the magnitude of the result, at most 64 significant bits, within the bound of the
function.  The part's own value is `Config.transPick`, any value of 64 bits whatever that lies within the bound; one that
does not is replaced by one that does, so that the constraint of R300 (b) holds whatever the constant is.
The cosine of a tiny operand too may be any value within the bound (R300 (b), D6): beside 1 and the number just below 1,
which are all that R303's corner case names, `1 + 2^-63`, `1 - 2^-63`, `1 - 3 * 2^-64` and `1 - 2^-62`.  That R300 (b) is
followed there is the model's choice (DESIGN CHOICE, assumption 21). -/
def transValue (op : TransOp) (y x : Ext) (rc : Rounding) : Bool × Mag :=
  let b := transReference op y x (Config.transStoredPeriod op x rc)
  (b.neg, b.choose (Config.transPick op y x rc))

end Sys2Proof
end

