-- ==== Sys2Proof/Machine/Transcendental.lean ====
section
/-! DEFINITION. The transcendental instructions (R300 to R312). -/

namespace Sys2Proof.Machine

open Config (TransOp)

/-! ## Delivery (R300 (c)) -/

/-- `deliver_trans` of R300 (c): PE always; C1 is `up` unless the delivery itself rounded. -/
def State.deliverTrans (s : State) (k : Fin 8) (v : Bool × Mag) (up : Bool) : State :=
  let d := deliver s.cw s.params.tinyBefore v.1 v.2 64 s.rc
  (((s.raiseAll d.flags).raise .pe).setC1 (if d.inexact then d.c1 else up)).putReg k d.val

/-- The call of `TRANS` for an instruction's operands under the rounding mode in force (R300 (b)). -/
def State.trans (s : State) (op : TransOp) (y x : Ext) : Bool × Mag := transValue op y x s.rc

/-- The round-up bit of that call (R300 (b)). -/
def State.transUp (s : State) (op : TransOp) (y x : Ext) : Bool := Config.transUp op y x s.rc

/-- A value of at most 64 significant bits in the normal range, as a pattern (R134 `pack`). -/
def packExact (v : Bool × Mag) : Ext := exactExt v.1 v.2.n v.2.k

/-! ## Trigonometric instructions (R301 to R305) -/

/-- An operand of magnitude `2^63` or more (R301 (a)). -/
def outOfRange (x : Ext) : Bool := decide (63 ≤ x.mag.log2)

/-- `trig_front` of R301 (b) from the infinity case on. -/
def trigNumber (dup : Ext → State → State) (go : Ext → State → State) (x : Ext) (s : State) : State :=
  if x.isInf then
    (s.drawC1.setC2 true).respond .ie fun s => dup indefinite (s.putReg (s.phys 0) indefinite)
  else
    s.denormThen x.isDenorm fun s =>
      if !x.isZero && outOfRange x then s.drawC1.setC2 true else go x (s.setC2 false)

/-- `trig_front` for an instruction with one result (R301 (b), (c)): C3 and C0 are UNDEFINED, and C2 where no row gives
it. -/
def trigOne (go : Ext → State → State) (s : State) : State :=
  oneOperand noDup (trigNumber noDup go) s.drawC30.drawC2

/-- `trig_front` for an instruction with two results. -/
def trigTwo (go : Ext → State → State) (s : State) : State :=
  oneOperandPush (trigNumber (fun v s => s.push v) go) s.drawC30.drawC2

/-- R302. -/
def sine (s : State) : State :=
  s |> trigOne fun x s =>
    if x.isZero then s.setC1 false
    else s.deliverTrans (s.phys 0) (s.trans .fsin x x) (s.transUp .fsin x x)

/-- R303. -/
def cosine (s : State) : State :=
  s |> trigOne fun x s =>
    if x.isZero then s.putExact (s.phys 0) (oneExt false)
    else s.deliverTrans (s.phys 0) (s.trans .fcos x x) (s.transUp .fcos x x)

/-- R304: the sine replaces ST and the cosine is pushed. -/
def sineCosine (s : State) : State :=
  s |> trigTwo fun x s =>
    if x.isZero then (s.push (oneExt false)).setC1 false
    else
      ((s.deliverTrans (s.phys 0) (s.trans .fsincosSin x x) (s.transUp .fsincosSin x x)).push
        (packExact (s.trans .fsincosCos x x))).raise .pe

/-- R305: the tangent replaces ST and 1 is pushed. -/
def tangent (s : State) : State :=
  s |> trigTwo fun x s =>
    if x.isZero then (s.push (oneExt false)).setC1 false
    else (s.deliverTrans (s.phys 0) (s.trans .fptan x x) (s.transUp .fptan x x)).push (oneExt false)

/-- FSIN (R302). -/
def execFsin (pfx : List Prefix) (s : State) : Result := numReg (.fsin pfx) s sine
/-- FCOS (R303). -/
def execFcos (pfx : List Prefix) (s : State) : Result := numReg (.fcos pfx) s cosine
/-- FSINCOS (R304). -/
def execFsincos (pfx : List Prefix) (s : State) : Result := numReg (.fsincos pfx) s sineCosine
/-- FPTAN (R305). -/
def execFptan (pfx : List Prefix) (s : State) : Result := numReg (.fptan pfx) s tangent

/-! ## Arctangent (R309) -/

/-- `PI(k, s)` of R309: `num / 2^j` times the internal pi, as a signed value rounded under RC. -/
def piMultiple (num j : Nat) (neg : Bool) (rc : Rounding) : Rounded :=
  roundTo neg rc { n := num * piMag.n, k := piMag.k - j, more := true } 64

/-- A result that is a multiple of pi: rounded, PE raised, C1 its roundup (R309). -/
def State.putPi (s : State) (k : Fin 8) (num j : Nat) (neg : Bool) : State :=
  let r := piMultiple num j neg s.rc
  ((s.raise .pe).setC1 r.up).putReg k (pack neg r)

/-- The rows of R309 with a zero or an infinity among the operands: a zero, or the multiple `num / 2^j` of pi. -/
inductive AtanRow where
  | zero
  | pi (num j : Nat)
  | computed
deriving DecidableEq, Repr

/-- R309's case table, for `y` in ST(1) and `x` in ST. -/
def atanRow (y x : Ext) : AtanRow :=
  if y.isZero then if x.sign then .pi 1 0 else .zero
  else if y.isInf then if x.isInf then (if x.sign then .pi 3 2 else .pi 1 2) else .pi 1 1
  else if x.isZero then .pi 1 1
  else if x.isInf then if x.sign then .pi 1 0 else .zero
  else .computed

/-- R309. -/
def arctangent (s : State) : State :=
  twoOperands 1 State.putExact State.pop (s := s.drawC320) fun x y s =>
    s.denormThen (x.isDenorm || y.isDenorm) fun s =>
      match atanRow y x with
      | .zero => (s.putExact (s.phys 1) (zeroExt y.sign)).pop
      | .pi num j => (s.putPi (s.phys 1) num j y.sign).pop
      | .computed => (s.deliverTrans (s.phys 1) (s.trans .fpatan y x) (s.transUp .fpatan y x)).pop

/-- FPATAN (R309). -/
def execFpatan (pfx : List Prefix) (s : State) : Result := numReg (.fpatan pfx) s arctangent

/-! ## Exponential and logarithms (R310 to R312) -/

/-- The comparison of `|val x|` with 1. -/
def cmpOne (x : Ext) : Ordering := x.mag.cmp { n := 1, k := 0 }

/-- An operand out of range of F2XM1 or FYL2XP1 (R310, R312, D26, U10): the 80 bits of the destination, C1 and PE are
UNDEFINED: drawn. -/
def State.putUndefined (s : State) (k : Fin 8) : State :=
  (s.drew.putReg k (extOfNat (s.drawn 80).toNat)).drawC1.drawPe

/-- R310. -/
def exponential (s : State) : State :=
  oneOperand noDup (s := s.drawC320) fun x s =>
    if x.isInf then if x.sign then s.putExact (s.phys 0) (oneExt true) else s.setC1 false
    else if x.isZero then s.setC1 false
    else
      s.denormThen x.isDenorm fun s =>
        if cmpOne x = .gt then s.putUndefined (s.phys 0)
        else s.deliverTrans (s.phys 0) (s.trans .f2xm1 x x) (s.transUp .f2xm1 x x)

/-- F2XM1 (R310). -/
def execF2xm1 (pfx : List Prefix) (s : State) : Result := numReg (.f2xm1 pfx) s exponential

/-- R311's invalid operands, `x` in ST and `y` in ST(1), neither a NaN nor unsupported. -/
def logInvalid (x y : Ext) : Bool :=
  (x.sign && !x.isZero) || (y.isZero && x.isZero) || (y.isZero && x.isInf) || (y.isInf && cmpOne x == .eq)

/-- R311's exact results; an infinite `y` with a zero `x` is decision D27's. -/
def logSpecial (x y : Ext) : Option Ext :=
  if y.isInf then
    if x.isZero then some (infExt (y.sign != x.sign))
    else if cmpOne x = .gt then some (infExt y.sign)
    else some (infExt (!y.sign))
  else if x.isInf then some (infExt y.sign)
  else if y.isZero then some (zeroExt (y.sign != (cmpOne x == .lt)))
  else if cmpOne x = .eq then some (zeroExt y.sign)
  else none

/-- R311: the infinity of a zero divide has the exclusive or of the signs, as the spec prints it. -/
def logarithm (s : State) : State :=
  twoOperands 1 State.putExact State.pop (s := s.drawC320) fun x y s =>
    if logInvalid x y then s.respond .ie fun s => (s.putExact (s.phys 1) indefinite).pop
    else if x.isZero && y.isFiniteNonzero then
      s.respond .ze fun s => (s.putExact (s.phys 1) (infExt (y.sign != x.sign))).pop
    else
      s.denormThen (x.isDenorm || y.isDenorm) fun s =>
        match logSpecial x y with
        | some r => (s.putExact (s.phys 1) r).pop
        | none => (s.deliverTrans (s.phys 1) (s.trans .fyl2x y x) (s.transUp .fyl2x y x)).pop

/-- FYL2X (R311). -/
def execFyl2x (pfx : List Prefix) (s : State) : Result := numReg (.fyl2x pfx) s logarithm

/-- `|val x| < 1 - sqrt 2 / 2`, that is `2 (1 - |x|)^2 > 1` and `|x| < 1` (R312). -/
def inLog1pRange (x : Ext) : Bool :=
  let d := (Mag.addSigned false { n := 1, k := 0 } true x.mag).2
  cmpOne x == .lt && ((d.mul d).scale 1).cmp { n := 1, k := 0 } == .gt

/-- R312's invalid operands. -/
def log1pInvalid (x y : Ext) : Bool :=
  (x.sign && cmpOne x == .gt) || (y.isZero && x.isInf) || (y.isInf && x.isZero)

/-- R312's exact results. -/
def log1pSpecial (x y : Ext) : Option Ext :=
  if x.isZero then some (zeroExt (y.sign != x.sign))
  else if x.isInf then some (infExt y.sign)
  else if y.isInf && !x.sign then some (infExt y.sign)
  else if y.isInf && cmpOne x == .lt then some (infExt (!y.sign))
  else if y.isZero && inLog1pRange x then some (zeroExt (y.sign != x.sign))
  else none

/-- R312. -/
def logarithmPlusOne (s : State) : State :=
  twoOperands 1 State.putExact State.pop (s := s.drawC320) fun x y s =>
    if log1pInvalid x y then s.respond .ie fun s => (s.putExact (s.phys 1) indefinite).pop
    else
      s.denormThen (x.isDenorm || y.isDenorm) fun s =>
        match log1pSpecial x y with
        | some r => (s.putExact (s.phys 1) r).pop
        | none =>
          if inLog1pRange x then
            (s.deliverTrans (s.phys 1) (s.trans .fyl2xp1 y x) (s.transUp .fyl2xp1 y x)).pop
          else (s.putUndefined (s.phys 1)).pop

/-- FYL2XP1 (R312). -/
def execFyl2xp1 (pfx : List Prefix) (s : State) : Result := numReg (.fyl2xp1 pfx) s logarithmPlusOne

end Sys2Proof.Machine
end

