-- ==== Sys2Proof/Machine/Dispatch.lean ====
section
/-! DEFINITION. Dispatch: one arm per constructor of `Instr`, each one direct call of its meaning. -/

namespace Sys2Proof.Machine

def exec (i : Instr) (s : State) : Host.Outcome State Fault Refusal :=
  match i with
  | .faddM32 p m => Sys2Proof.Machine.execFaddM32 p m s
  | .fmulM32 p m => Sys2Proof.Machine.execFmulM32 p m s
  | .fcomM32 p m => Sys2Proof.Machine.execFcomM32 p m s
  | .fcompM32 p m => Sys2Proof.Machine.execFcompM32 p m s
  | .fsubM32 p m => Sys2Proof.Machine.execFsubM32 p m s
  | .fsubrM32 p m => Sys2Proof.Machine.execFsubrM32 p m s
  | .fdivM32 p m => Sys2Proof.Machine.execFdivM32 p m s
  | .fdivrM32 p m => Sys2Proof.Machine.execFdivrM32 p m s
  | .faddStSti p n => Sys2Proof.Machine.execFaddStSti p n s
  | .fmulStSti p n => Sys2Proof.Machine.execFmulStSti p n s
  | .fcomSti p n => Sys2Proof.Machine.execFcomSti p n s
  | .fcompSti p n => Sys2Proof.Machine.execFcompSti p n s
  | .fsubStSti p n => Sys2Proof.Machine.execFsubStSti p n s
  | .fsubrStSti p n => Sys2Proof.Machine.execFsubrStSti p n s
  | .fdivStSti p n => Sys2Proof.Machine.execFdivStSti p n s
  | .fdivrStSti p n => Sys2Proof.Machine.execFdivrStSti p n s
  | .fldM32 p m => Sys2Proof.Machine.execFldM32 p m s
  | .reservedD9Mem1 p m => Sys2Proof.Machine.execReservedD9Mem1 p m s
  | .fstM32 p m => Sys2Proof.Machine.execFstM32 p m s
  | .fstpM32 p m => Sys2Proof.Machine.execFstpM32 p m s
  | .fldenv p m => Sys2Proof.Machine.execFldenv p m s
  | .fldcw p m => Sys2Proof.Machine.execFldcw p m s
  | .fnstenv p m => Sys2Proof.Machine.execFnstenv p m s
  | .fnstcw p m => Sys2Proof.Machine.execFnstcw p m s
  | .fldSti p n => Sys2Proof.Machine.execFldSti p n s
  | .fxch p n => Sys2Proof.Machine.execFxch p n s
  | .fnop p => Sys2Proof.Machine.execFnop p s
  | .reservedD9D1 p => Sys2Proof.Machine.execReservedD9D1 p s
  | .reservedD9D2 p x => Sys2Proof.Machine.execReservedD9D2 p x s
  | .reservedD9D4 p x => Sys2Proof.Machine.execReservedD9D4 p x s
  | .reservedD9D8 p x => Sys2Proof.Machine.execReservedD9D8 p x s
  | .fchs p => Sys2Proof.Machine.execFchs p s
  | .fabs p => Sys2Proof.Machine.execFabs p s
  | .reservedD9E2 p => Sys2Proof.Machine.execReservedD9E2 p s
  | .reservedD9E3 p => Sys2Proof.Machine.execReservedD9E3 p s
  | .ftst p => Sys2Proof.Machine.execFtst p s
  | .fxam p => Sys2Proof.Machine.execFxam p s
  | .reservedD9E6 p => Sys2Proof.Machine.execReservedD9E6 p s
  | .reservedD9E7 p => Sys2Proof.Machine.execReservedD9E7 p s
  | .fld1 p => Sys2Proof.Machine.execFld1 p s
  | .fldl2t p => Sys2Proof.Machine.execFldl2t p s
  | .fldl2e p => Sys2Proof.Machine.execFldl2e p s
  | .fldpi p => Sys2Proof.Machine.execFldpi p s
  | .fldlg2 p => Sys2Proof.Machine.execFldlg2 p s
  | .fldln2 p => Sys2Proof.Machine.execFldln2 p s
  | .fldz p => Sys2Proof.Machine.execFldz p s
  | .reservedD9EF p => Sys2Proof.Machine.execReservedD9EF p s
  | .f2xm1 p => Sys2Proof.Machine.execF2xm1 p s
  | .fyl2x p => Sys2Proof.Machine.execFyl2x p s
  | .fptan p => Sys2Proof.Machine.execFptan p s
  | .fpatan p => Sys2Proof.Machine.execFpatan p s
  | .fxtract p => Sys2Proof.Machine.execFxtract p s
  | .fprem1 p => Sys2Proof.Machine.execFprem1 p s
  | .fdecstp p => Sys2Proof.Machine.execFdecstp p s
  | .fincstp p => Sys2Proof.Machine.execFincstp p s
  | .fprem p => Sys2Proof.Machine.execFprem p s
  | .fyl2xp1 p => Sys2Proof.Machine.execFyl2xp1 p s
  | .fsqrt p => Sys2Proof.Machine.execFsqrt p s
  | .fsincos p => Sys2Proof.Machine.execFsincos p s
  | .frndint p => Sys2Proof.Machine.execFrndint p s
  | .fscale p => Sys2Proof.Machine.execFscale p s
  | .fsin p => Sys2Proof.Machine.execFsin p s
  | .fcos p => Sys2Proof.Machine.execFcos p s
  | .fiaddI32 p m => Sys2Proof.Machine.execFiaddI32 p m s
  | .fimulI32 p m => Sys2Proof.Machine.execFimulI32 p m s
  | .ficomI32 p m => Sys2Proof.Machine.execFicomI32 p m s
  | .ficompI32 p m => Sys2Proof.Machine.execFicompI32 p m s
  | .fisubI32 p m => Sys2Proof.Machine.execFisubI32 p m s
  | .fisubrI32 p m => Sys2Proof.Machine.execFisubrI32 p m s
  | .fidivI32 p m => Sys2Proof.Machine.execFidivI32 p m s
  | .fidivrI32 p m => Sys2Proof.Machine.execFidivrI32 p m s
  | .reservedDAC0 p x => Sys2Proof.Machine.execReservedDAC0 p x s
  | .reservedDAE0 p x => Sys2Proof.Machine.execReservedDAE0 p x s
  | .reservedDAE8 p => Sys2Proof.Machine.execReservedDAE8 p s
  | .fucompp p => Sys2Proof.Machine.execFucompp p s
  | .reservedDAEA p x => Sys2Proof.Machine.execReservedDAEA p x s
  | .reservedDAEC p x => Sys2Proof.Machine.execReservedDAEC p x s
  | .reservedDAF0 p x => Sys2Proof.Machine.execReservedDAF0 p x s
  | .fildI32 p m => Sys2Proof.Machine.execFildI32 p m s
  | .reservedDBMem1 p m => Sys2Proof.Machine.execReservedDBMem1 p m s
  | .fistI32 p m => Sys2Proof.Machine.execFistI32 p m s
  | .fistpI32 p m => Sys2Proof.Machine.execFistpI32 p m s
  | .reservedDBMem4 p m => Sys2Proof.Machine.execReservedDBMem4 p m s
  | .fldM80 p m => Sys2Proof.Machine.execFldM80 p m s
  | .reservedDBMem6 p m => Sys2Proof.Machine.execReservedDBMem6 p m s
  | .fstpM80 p m => Sys2Proof.Machine.execFstpM80 p m s
  | .reservedDBC0 p x => Sys2Proof.Machine.execReservedDBC0 p x s
  | .feni p => Sys2Proof.Machine.execFeni p s
  | .fdisi p => Sys2Proof.Machine.execFdisi p s
  | .fnclex p => Sys2Proof.Machine.execFnclex p s
  | .fninit p => Sys2Proof.Machine.execFninit p s
  | .fsetpm p => Sys2Proof.Machine.execFsetpm p s
  | .reservedDBE5 p => Sys2Proof.Machine.execReservedDBE5 p s
  | .reservedDBE6 p x => Sys2Proof.Machine.execReservedDBE6 p x s
  | .reservedDBE8 p x => Sys2Proof.Machine.execReservedDBE8 p x s
  | .reservedDBF0 p x => Sys2Proof.Machine.execReservedDBF0 p x s
  | .faddM64 p m => Sys2Proof.Machine.execFaddM64 p m s
  | .fmulM64 p m => Sys2Proof.Machine.execFmulM64 p m s
  | .fcomM64 p m => Sys2Proof.Machine.execFcomM64 p m s
  | .fcompM64 p m => Sys2Proof.Machine.execFcompM64 p m s
  | .fsubM64 p m => Sys2Proof.Machine.execFsubM64 p m s
  | .fsubrM64 p m => Sys2Proof.Machine.execFsubrM64 p m s
  | .fdivM64 p m => Sys2Proof.Machine.execFdivM64 p m s
  | .fdivrM64 p m => Sys2Proof.Machine.execFdivrM64 p m s
  | .faddStiSt p n => Sys2Proof.Machine.execFaddStiSt p n s
  | .fmulStiSt p n => Sys2Proof.Machine.execFmulStiSt p n s
  | .reservedDCD0 p x => Sys2Proof.Machine.execReservedDCD0 p x s
  | .fsubrStiSt p n => Sys2Proof.Machine.execFsubrStiSt p n s
  | .fsubStiSt p n => Sys2Proof.Machine.execFsubStiSt p n s
  | .fdivrStiSt p n => Sys2Proof.Machine.execFdivrStiSt p n s
  | .fdivStiSt p n => Sys2Proof.Machine.execFdivStiSt p n s
  | .fldM64 p m => Sys2Proof.Machine.execFldM64 p m s
  | .reservedDDMem1 p m => Sys2Proof.Machine.execReservedDDMem1 p m s
  | .fstM64 p m => Sys2Proof.Machine.execFstM64 p m s
  | .fstpM64 p m => Sys2Proof.Machine.execFstpM64 p m s
  | .frstor p m => Sys2Proof.Machine.execFrstor p m s
  | .reservedDDMem5 p m => Sys2Proof.Machine.execReservedDDMem5 p m s
  | .fnsave p m => Sys2Proof.Machine.execFnsave p m s
  | .fnstswM16 p m => Sys2Proof.Machine.execFnstswM16 p m s
  | .ffree p n => Sys2Proof.Machine.execFfree p n s
  | .reservedDDC8 p x => Sys2Proof.Machine.execReservedDDC8 p x s
  | .fstSti p n => Sys2Proof.Machine.execFstSti p n s
  | .fstpSti p n => Sys2Proof.Machine.execFstpSti p n s
  | .fucomSti p n => Sys2Proof.Machine.execFucomSti p n s
  | .fucompSti p n => Sys2Proof.Machine.execFucompSti p n s
  | .reservedDDF0 p x => Sys2Proof.Machine.execReservedDDF0 p x s
  | .fiaddI16 p m => Sys2Proof.Machine.execFiaddI16 p m s
  | .fimulI16 p m => Sys2Proof.Machine.execFimulI16 p m s
  | .ficomI16 p m => Sys2Proof.Machine.execFicomI16 p m s
  | .ficompI16 p m => Sys2Proof.Machine.execFicompI16 p m s
  | .fisubI16 p m => Sys2Proof.Machine.execFisubI16 p m s
  | .fisubrI16 p m => Sys2Proof.Machine.execFisubrI16 p m s
  | .fidivI16 p m => Sys2Proof.Machine.execFidivI16 p m s
  | .fidivrI16 p m => Sys2Proof.Machine.execFidivrI16 p m s
  | .faddp p n => Sys2Proof.Machine.execFaddp p n s
  | .fmulp p n => Sys2Proof.Machine.execFmulp p n s
  | .reservedDED0 p x => Sys2Proof.Machine.execReservedDED0 p x s
  | .reservedDED8 p => Sys2Proof.Machine.execReservedDED8 p s
  | .fcompp p => Sys2Proof.Machine.execFcompp p s
  | .reservedDEDA p x => Sys2Proof.Machine.execReservedDEDA p x s
  | .reservedDEDC p x => Sys2Proof.Machine.execReservedDEDC p x s
  | .fsubrp p n => Sys2Proof.Machine.execFsubrp p n s
  | .fsubp p n => Sys2Proof.Machine.execFsubp p n s
  | .fdivrp p n => Sys2Proof.Machine.execFdivrp p n s
  | .fdivp p n => Sys2Proof.Machine.execFdivp p n s
  | .fildI16 p m => Sys2Proof.Machine.execFildI16 p m s
  | .reservedDFMem1 p m => Sys2Proof.Machine.execReservedDFMem1 p m s
  | .fistI16 p m => Sys2Proof.Machine.execFistI16 p m s
  | .fistpI16 p m => Sys2Proof.Machine.execFistpI16 p m s
  | .fbld p m => Sys2Proof.Machine.execFbld p m s
  | .fildI64 p m => Sys2Proof.Machine.execFildI64 p m s
  | .fbstp p m => Sys2Proof.Machine.execFbstp p m s
  | .fistpI64 p m => Sys2Proof.Machine.execFistpI64 p m s
  | .reservedDFC0 p x => Sys2Proof.Machine.execReservedDFC0 p x s
  | .fnstswAx p => Sys2Proof.Machine.execFnstswAx p s
  | .reservedDFE1 p => Sys2Proof.Machine.execReservedDFE1 p s
  | .reservedDFE2 p x => Sys2Proof.Machine.execReservedDFE2 p x s
  | .reservedDFE4 p x => Sys2Proof.Machine.execReservedDFE4 p x s
  | .reservedDFE8 p x => Sys2Proof.Machine.execReservedDFE8 p x s
  | .reservedDFF0 p x => Sys2Proof.Machine.execReservedDFF0 p x s
  | .wait p => Sys2Proof.Machine.execWait p s

end Sys2Proof.Machine
end

