-- ==== Sys2Proof/Machine/Access.lean ====
section
/-! DEFINITION. The memory operand of each instruction, and the store that is in progress when RESET comes. -/

namespace Sys2Proof.Machine

/-- A memory operand, whether it is written, and its size in bytes (R53, R70). -/
structure Access where
  mem : MemOp
  write : Bool
  size : Nat
deriving DecidableEq, Repr

/-- The memory operand of each instruction that has one, by the tables of R53, R61 and R70.  A reserved encoding has
none. -/
def State.access (s : State) : Instr → Option Access
  | .faddM32 _ m | .fmulM32 _ m | .fcomM32 _ m | .fcompM32 _ m | .fsubM32 _ m | .fsubrM32 _ m | .fdivM32 _ m
  | .fdivrM32 _ m | .fldM32 _ m => some ⟨m, false, 4⟩
  | .faddM64 _ m | .fmulM64 _ m | .fcomM64 _ m | .fcompM64 _ m | .fsubM64 _ m | .fsubrM64 _ m | .fdivM64 _ m
  | .fdivrM64 _ m | .fldM64 _ m => some ⟨m, false, 8⟩
  | .fiaddI32 _ m | .fimulI32 _ m | .ficomI32 _ m | .ficompI32 _ m | .fisubI32 _ m | .fisubrI32 _ m | .fidivI32 _ m
  | .fidivrI32 _ m | .fildI32 _ m => some ⟨m, false, 4⟩
  | .fiaddI16 _ m | .fimulI16 _ m | .ficomI16 _ m | .ficompI16 _ m | .fisubI16 _ m | .fisubrI16 _ m | .fidivI16 _ m
  | .fidivrI16 _ m | .fildI16 _ m => some ⟨m, false, 2⟩
  | .fildI64 _ m => some ⟨m, false, 8⟩
  | .fldM80 _ m | .fbld _ m => some ⟨m, false, 10⟩
  | .fldcw _ m => some ⟨m, false, 2⟩
  | .fldenv p m => some ⟨m, false, (s.imageFormat p).envSize⟩
  | .frstor p m => some ⟨m, false, (s.imageFormat p).stateSize⟩
  | .fstM32 _ m | .fstpM32 _ m | .fistI32 _ m | .fistpI32 _ m => some ⟨m, true, 4⟩
  | .fstM64 _ m | .fstpM64 _ m | .fistpI64 _ m => some ⟨m, true, 8⟩
  | .fistI16 _ m | .fistpI16 _ m | .fnstcw _ m | .fnstswM16 _ m => some ⟨m, true, 2⟩
  | .fstpM80 _ m | .fbstp _ m => some ⟨m, true, 10⟩
  | .fnstenv p m => some ⟨m, true, (s.imageFormat p).envSize⟩
  | .fnsave p m => some ⟨m, true, (s.imageFormat p).stateSize⟩
  | _ => none

/-- The linear addresses an instruction can store to: its memory operand's, when that operand is written. -/
def State.storeAddrs (s : State) (i : Instr) : List Nat :=
  match s.access i with
  | some ⟨m, true, n⟩ => s.placeAddrs (s.place i.prefixes m) n
  | _ => []

/-- The seven instructions that do not test ERROR# (R331 (b)). -/
def noWait : Instr → Bool
  | .fninit _ | .fnstcw _ _ | .fnstswM16 _ _ | .fnstswAx _ | .fnclex _ | .fnsave _ _ | .fnstenv _ _ => true
  | _ => false

/-- The bytes of memory that the instruction at CS:EIP can be storing when RESET cuts it short (R460): those of its
destination that can be reached, once the tests before it have passed. -/
def State.storeInProgress (s : State) (i : Instr) : List Nat :=
  match s.access i with
  | some ⟨m, true, n⟩ =>
    if !s.cr0.em && !s.cr0.ts && s.cr0.et && (noWait i || !s.sw.es)
        && s.firstFault (s.place i.prefixes m) true n == none then s.reachable (s.place i.prefixes m) n
    else []
  | _ => []

end Sys2Proof.Machine
end

