-- ==== Sys2Proof/Machine/Fetch.lean ====
section
/-! DEFINITION. Fetching an instruction's bytes at CS:EIP, and what the environment can do between instructions
(R40, R50, R91, R92, R106, R428, R460, R474). -/

namespace Sys2Proof.Machine

/-! ## Fetch -/

/-- The longest instruction the machine fetches, in bytes (assumption 8). -/
def fetchLimit : Nat := 15

/-- The linear address of the byte `k` on from the instruction pointer. -/
def State.codeAddr (s : State) (k : Nat) : Nat := (s.base s.seg.cs + (s.eip + BitVec.ofNat 32 k)).toNat

/-- Whether that byte lies within the code segment, without wrapping (D11). -/
def State.codeInLimit (s : State) (k : Nat) : Bool :=
  decide (s.eip.toNat + k ≤ s.seg.cs.limit.toNat) && (s.code32 || decide (s.eip.toNat + k ≤ 0xFFFF))

/-- The addresses of the bytes at the instruction pointer, up to the segment's limit. -/
def State.codeAddrs (s : State) : List Nat :=
  ((List.range fetchLimit).takeWhile s.codeInLimit).map s.codeAddr

/-- The bytes at the instruction pointer, in increasing address order (R50). -/
def State.fetchBytes (s : State) : List Byte := readBytes s.mem s.codeAddrs

/-- What the decoder makes of the bytes at the instruction pointer (R106). -/
def State.fetch (s : State) : Except DecodeError (Instr × List Byte) := decode s.code32 s.fetchBytes

/-- Whether a store has written a byte of the instruction of `n` bytes at the instruction pointer (R85, D16). -/
def State.codeStored (s : State) (n : Nat) : Bool := (s.codeAddrs.take n).any fun a => s.stored.contains a

/-- The refusal for bytes that do not decode (R91, R106, D11). -/
def decodeRefusal : DecodeError → Refusal
  | .truncated => .instructionBytesOutside
  | .lockOrRep b => .lockOrRepPrefix b
  | .notNpx b => .notNpxInstruction b

/-! ## The environment -/

/-- The linear addresses of `n` bytes from `a` on. -/
def bytesFrom (a : Word32) (n : Nat) : List Nat := (List.range n).map fun k => (a + BitVec.ofNat 32 k).toNat

/-- Whether two lists of addresses share one. -/
def meet (as bs : List Nat) : Bool := as.any fun a => bs.contains a

/-- SAHF (R21): CF, PF and ZF from bits 0, 2 and 6 of AH. -/
def State.sahf (s : State) : State :=
  { s with flags :=
      { s.flags with cf := s.gpr.eax.getLsbD 8, pf := s.gpr.eax.getLsbD 10, zf := s.gpr.eax.getLsbD 14 } }

/-- RESET in the middle of the instruction at CS:EIP (R460): what it was storing is any value (U4), and nothing else of
it happens. -/
def State.resetInStore (s : State) : State :=
  match s.fetch with
  | .ok (i, _) => (s.drawBytes (s.storeInProgress i)).resetEvent
  | .error _ => s.resetEvent

/-- What an act of the environment does. -/
def State.event (s : State) : Event → Result
  | .reset => .next s.resetEvent
  | .resetInStore => .next s.resetInStore
  | .setCr0 c => .next { s with cr0 := c }
  | .cpu g sg md ip => .next { s with gpr := g, seg := sg, mode := md, eip := ip }
  | .setDenied d => .next { s with denied := d }
  | .iret =>
    match s.returnFromTrap with
    | some t => .next t
    | none => .refused .noReturnLink
  | .sti => .next { s with flags := { s.flags with intf := true } }
  | .sahf => .next s.sahf
  | .cpuRead a n =>
    if s.params.strictSync && meet (bytesFrom a n) s.pendingStores then .refused .operandNotSynchronised
    else .next s
  | .cpuWrite a bs =>
    if s.params.strictSync
        && (meet (bytesFrom a bs.length) s.pendingStores || meet (bytesFrom a bs.length) s.pendingLoads) then
      .refused .operandNotSynchronised
    else .next (s.store (bytesFrom a bs.length) bs)

/-- The state without the first of its inputs. -/
def State.dropInput (s : State) : State := { s with inputs := s.inputs.tail }

end Sys2Proof.Machine
end

