-- ==== Sys2Proof/Machine/Step.lean ====
section
/-! DEFINITION. One step: an act of the environment if the next input is one, else the instruction at CS:EIP. -/

namespace Sys2Proof.Machine

/-- The instruction at CS:EIP executed (R40, R106).  After interrupt 9 the numeric state is drawn anew first (U11). -/
def runNext (s : State) : Result :=
  match s.fetch with
  | .error e => .refused (decodeRefusal e)
  | .ok (i, _) => if s.codeStored i.length then .refused .codeBytesStored else exec i s.unsettle

/-- One step of the machine. -/
def step (s : State) : Host.Outcome State Fault Refusal :=
  match s.inputs with
  | [] => runNext s
  | none :: _ => runNext s.dropInput
  | some e :: _ => s.dropInput.event e

/-- The state with an instruction, numbered as spec/opcode_table.json numbers it, stored where the next step fetches,
its bytes not counted as stored by the program, and no act of the environment before it. -/
def State.withFetchWord (s : State) (nbits w : Nat) : State :=
  let as := (List.range fetchLimit).map s.codeAddr
  { s with
    mem := writeBytes s.mem as (tableWordBytes nbits w)
    stored := s.stored.filter fun a => !as.contains a
    inputs :=
      match s.inputs with
      | some e :: rest => none :: some e :: rest
      | l => l }

end Sys2Proof.Machine
end

