-- ==== Sys2Proof/WellFormed.lean ====
section
/-! DEFINITION. Well-formed instructions: the terms that some byte string encodes, under a code segment's default
address size (R91 to R94, assumption 8). -/

namespace Sys2Proof

/-- BP alone has no form without a displacement: MOD = 00, R/M = 110 is the direct address (R94). -/
def EA16.wf : EA16 → Bool
  | .direct _ => true
  | .based .bp .none => false
  | .based _ _ => true

/-- ESP is no index: the index field 100B means none (R93). -/
def indexWf : Option GReg → Bool
  | some .esp => false
  | _ => true

/-- EBP as a base has no form without a displacement: with MOD = 00 its field means a 32-bit displacement (R93). -/
def baseWf (b : GReg) (d : Disp 32) : Bool := !(b == .ebp && d == .none)

/-- ESP as a base needs a SIB byte (R93). -/
def EA32.wf : EA32 → Bool
  | .direct _ => true
  | .reg b d => b != .esp && baseWf b d
  | .sib _ ix b d => indexWf ix && baseWf b d
  | .sibNoBase _ ix _ => indexWf ix

/-- The operand's form is the address-size attribute's (R91 (b)), and the encoding has such an operand. -/
def MemOp.wf (as32 : Bool) : MemOp → Bool
  | .a16 ea => !as32 && ea.wf
  | .a32 ea => as32 && ea.wf

/-- The memory operand of a form, if it has one, is well formed. -/
def Form.wf (as32 : Bool) : Form → Bool
  | .wait => true
  | .reg _ _ _ => true
  | .mem _ _ m => m.wf as32

/-- The most bytes an instruction may have (assumption 8). -/
def maxLength : Nat := 15

/-- A well-formed instruction of a code segment whose default address size is 32 bits or not. -/
def Instr.wf (default32 : Bool) (i : Instr) : Bool :=
  i.form.wf (addrSize32 default32 i.prefixes) && decide (i.length ≤ maxLength)

end Sys2Proof
end

