-- ==== Sys2Proof/Safety.lean ====
section
/-! DEFINITION. The words of the statements: a sound state, the conditions under which an instruction is executed and not
trapped, and what an instruction leaves unchanged. -/

namespace Sys2Proof.Machine

/-! ## Sound states -/

/-- Every listed address exists: memory is 32-bit addressed (R43). -/
def memBelow (m : List Host.Cell) : Bool := m.all fun c => decide (c.1 < 2 ^ 32)

/-- R18: ES is set exactly when some flag is set whose mask is clear, and B equals ES. -/
def State.summaryHolds (s : State) : Prop :=
  s.sw.es = unmaskedFlag s.cw s.sw ∧ s.sw.busy = s.sw.es

/-- The invariant of the machine: memory in canonical form over existing addresses, and R18. -/
def State.Sound (s : State) : Prop := Memory.wf s.mem = true ∧ memBelow s.mem = true ∧ s.summaryHolds

/-! ## When an instruction is executed -/

/-- The processor lets an ESC instruction through to the numeric processor (R430, R434): EM and TS clear, ET set, and,
for an instruction that tests it, ERROR# inactive. -/
def State.Ready (s : State) (waits : Bool) : Prop :=
  s.cr0.em = false ∧ s.cr0.ts = false ∧ s.cr0.et = true ∧ (waits = true → s.sw.es = false)

/-- Every byte of a memory operand of `n` bytes can be reached, its beginning in particular (R431 to R433). -/
def State.Reachable (s : State) (pfx : List Prefix) (m : MemOp) (write : Bool) (n : Nat) : Prop :=
  s.firstFault (s.place pfx m) write n = none ∧ s.laterFault (s.place pfx m) write n = false

/-- The memory operand of an instruction, if it has one, can be reached. -/
def State.OperandReachable (s : State) (i : Instr) : Prop :=
  ∀ a, s.access i = some a → s.Reachable i.prefixes a.mem a.write a.size

/-- The forty reserved encodings of R105. -/
def reserved : Instr → Bool
  | .reservedD9Mem1 _ _ | .reservedD9D1 _ | .reservedD9D2 _ _ | .reservedD9D4 _ _ | .reservedD9D8 _ _
  | .reservedD9E2 _ | .reservedD9E3 _ | .reservedD9E6 _ | .reservedD9E7 _ | .reservedD9EF _ | .reservedDAC0 _ _
  | .reservedDAE0 _ _ | .reservedDAE8 _ | .reservedDAEA _ _ | .reservedDAEC _ _ | .reservedDAF0 _ _
  | .reservedDBMem1 _ _ | .reservedDBMem4 _ _ | .reservedDBMem6 _ _ | .reservedDBC0 _ _ | .reservedDBE5 _
  | .reservedDBE6 _ _ | .reservedDBE8 _ _ | .reservedDBF0 _ _ | .reservedDCD0 _ _ | .reservedDDMem1 _ _
  | .reservedDDMem5 _ _ | .reservedDDC8 _ _ | .reservedDDF0 _ _ | .reservedDED0 _ _ | .reservedDED8 _
  | .reservedDEDA _ _ | .reservedDEDC _ _ | .reservedDFMem1 _ _ | .reservedDFC0 _ _ | .reservedDFE1 _
  | .reservedDFE2 _ _ | .reservedDFE4 _ _ | .reservedDFE8 _ _ | .reservedDFF0 _ _ => true
  | _ => false

/-- All six exceptions masked (R22). -/
def State.AllMasked (s : State) : Prop := ∀ x, masked s.cw x = true

/-! ## What is unchanged, and how flags change -/

/-- No byte of memory has changed but those at these addresses. -/
def State.KeepsMemory (s t : State) (but : List Nat) : Prop := ∀ a, a ∉ but → readByte t.mem a = readByte s.mem a

/-- No data register has changed but these. -/
def State.KeepsRegs (s t : State) (but : List (Fin 8)) : Prop := ∀ k, k ∉ but → t.reg k = s.reg k

/-- No tag has changed but these. -/
def State.KeepsTags (s t : State) (but : List (Fin 8)) : Prop := ∀ k, k ∉ but → t.isEmpty k = s.isEmpty k

/-- The exception pointers are as before (R37). -/
def State.KeepsPointers (s t : State) : Prop := t.fip = s.fip ∧ t.fdp = s.fdp ∧ t.fop = s.fop

/-- The exceptions of the list have been raised and no other (R401): their flags are set, ES and B with them if one is
unmasked, and SF is as before. -/
def State.Raised (s t : State) (xs : List Exc) : Prop :=
  (∀ x, t.sw.flag x = (s.sw.flag x || xs.contains x)) ∧ t.sw.sf = s.sw.sf
    ∧ t.sw.es = (s.sw.es || xs.any fun x => !masked s.cw x)
    ∧ t.sw.busy = (s.sw.busy || xs.any fun x => !masked s.cw x)

/-- A stack fault has been signaled and nothing else (R410). -/
def State.StackFaulted (s t : State) (overflow : Bool) : Prop :=
  t.sw.ie = true ∧ t.sw.sf = true ∧ t.sw.c1 = overflow
    ∧ (∀ x, x ≠ .ie → t.sw.flag x = s.sw.flag x)
    ∧ t.sw.es = (s.sw.es || !masked s.cw .ie) ∧ t.sw.busy = (s.sw.busy || !masked s.cw .ie)

/-- The processor's own state is as before, but for the instruction pointer: registers, segments, mode, CR0, flags,
handlers, return links, paging, parameters and inputs (R41). -/
def State.KeepsCpu (s t : State) : Prop :=
  t.gpr = s.gpr ∧ t.seg = s.seg ∧ t.mode = s.mode ∧ t.cr0 = s.cr0 ∧ t.flags = s.flags ∧ t.gates = s.gates
    ∧ t.links = s.links ∧ t.denied = s.denied ∧ t.params = s.params ∧ t.inputs = s.inputs ∧ t.overrun = s.overrun

/-- The instruction pointer has moved past the instruction, modulo its width (R40, D11). -/
def State.Advanced (s t : State) (i : Instr) : Prop :=
  t.eip.toNat = (s.eip.toNat + i.length) % (if s.code32 then 2 ^ 32 else 2 ^ 16)

/-- The instruction has completed: nothing of the processor has changed but the instruction pointer. -/
def State.Completed (s t : State) (i : Instr) : Prop := s.KeepsCpu t ∧ s.Advanced t i

/-- A numeric instruction has completed and left the control word alone: FIP and FOP are its own (R36). -/
def State.CompletedNumeric (s t : State) (i : Instr) : Prop :=
  s.Completed t i ∧ t.cw = s.cw ∧ t.fip = ⟨s.seg.cs.sel, s.eip⟩ ∧ t.fop = i.fop
    ∧ ∀ a, s.access i = some a → t.fdp = (s.place i.prefixes a.mem).ptr

/-- A value has been pushed (R13): one register and its tag written, C1 clear, memory as before. -/
def State.Pushed (s t : State) (i : Instr) (v : Ext) : Prop :=
  t.sw.top = s.sw.top - 1 ∧ t.st 0 = v ∧ t.stEmpty 0 = false ∧ t.sw.c1 = false
    ∧ s.KeepsRegs t [s.phys 7] ∧ s.KeepsTags t [s.phys 7] ∧ s.KeepsMemory t [] ∧ s.CompletedNumeric t i

/-- How TOP and the tags stand after `pops` pops (R13): TOP up by their number, the popped registers empty, the others
as `s` has them, but for the register `d` if there is one, which a result has made nonempty. -/
def State.Popped (s t : State) (d : Option (Fin 8)) (pops : Nat) : Prop :=
  t.sw.top = s.sw.top + Fin.ofNat 8 pops
    ∧ ∀ k, t.isEmpty k =
        if (k - s.sw.top).val < pops then true else if d = some k then false else s.isEmpty k

end Sys2Proof.Machine
end

