-- ==== Sys2Proof/Values.lean ====
section
/-! DEFINITION. The numbers that patterns stand for, as the statements speak of them: values of registers and memory
operands in the rationals, representable numbers, and what rounding means (R57 to R60, R121, R122, R130, R131).  The
machine computes with none of these definitions. -/

namespace Sys2Proof

/-! ## Values -/

/-- The sign of a sign bit. -/
def signOf (neg : Bool) : ℚ := if neg then -1 else 1

/-- `val x` of R121, for the finite patterns. -/
def Ext.val (x : Ext) : ℚ :=
  if x.exp = 0 then signOf x.sign * 2 ^ (-16382 : ℤ) * (x.sig.toNat / 2 ^ 63)
  else signOf x.sign * 2 ^ ((x.exp.toNat : ℤ) - 16383) * (x.sig.toNat / 2 ^ 63)

/-- A zero or a normal number: an operand that raises nothing by its class (R140, R141, R144). -/
def Ext.ordinary (x : Ext) : Bool := classify x == .zero || classify x == .normal

/-- A register operand's place on the affine line (R145, R280 (b)). -/
def Ext.affine (x : Ext) : WithBot (WithTop ℚ) :=
  if x.isInf then (if x.sign then ⊥ else ((⊤ : WithTop ℚ) : WithBot (WithTop ℚ))) else ((x.val : WithTop ℚ) : WithBot (WithTop ℚ))

/-- The exponent field of a real format in memory with `k` exponent bits and `f` fraction bits (R57, R58). -/
def expField (k f w : Nat) : Nat := w / 2 ^ f % 2 ^ k

/-- The fraction field. -/
def fracField (f w : Nat) : Nat := w % 2 ^ f

/-- The sign bit. -/
def signField (k f w : Nat) : Bool := w / 2 ^ (k + f) % 2 == 1

/-- The number that a finite single or double operand stands for (R57, R58, R122). -/
def formatVal (k f w : Nat) : ℚ :=
  let bias : ℤ := 2 ^ (k - 1) - 1
  if expField k f w = 0 then signOf (signField k f w) * 2 ^ (1 - bias) * (fracField f w / 2 ^ f)
  else signOf (signField k f w) * 2 ^ ((expField k f w : ℤ) - bias) * (1 + fracField f w / 2 ^ f)

/-- Not an infinity and not a NaN. -/
def formatFinite (k f w : Nat) : Bool := expField k f w != 2 ^ k - 1

/-- A denormal of the format (R148). -/
def formatDenormal (k f w : Nat) : Bool := expField k f w == 0 && fracField f w != 0

/-- The number that eighteen decimal digits stand for, four bits each (R60). -/
def decimalVal (w : Nat) : Nat := ((List.range 18).map fun k => w / 16 ^ k % 16 * 10 ^ k).sum

/-- The memory formats of an arithmetic or comparison operand (R53, R230 (c), R280). -/
inductive Source where
  | single | double | int16 | int32
deriving DecidableEq, Repr

/-- The bytes of the operand. -/
def Source.size : Source → Nat
  | .single => 4 | .double => 8 | .int16 => 2 | .int32 => 4

/-- Whether the operand is a number that raises nothing by its class. -/
def Source.ordinary (f : Source) (w : Nat) : Bool :=
  match f with
  | .single => formatFinite 8 23 w && !formatDenormal 8 23 w
  | .double => formatFinite 11 52 w && !formatDenormal 11 52 w
  | .int16 => true
  | .int32 => true

/-- The number the operand stands for. -/
def Source.val (f : Source) (w : Nat) : ℚ :=
  match f with
  | .single => formatVal 8 23 w
  | .double => formatVal 11 52 w
  | .int16 => ((BitVec.ofNat 16 w).toInt : ℚ)
  | .int32 => ((BitVec.ofNat 32 w).toInt : ℚ)

/-- The exponent and fraction widths of a real format; an integer format has none. -/
def Source.fields : Source → Option (Nat × Nat)
  | .single => some (8, 23)
  | .double => some (11, 52)
  | .int16 => none
  | .int32 => none

/-- Whether the operand is an infinity (R57, R58). -/
def Source.isInf (f : Source) (w : Nat) : Bool :=
  match f.fields with
  | some (k, fr) => !formatFinite k fr w && fracField fr w == 0
  | none => false

/-- Whether the operand is a NaN (R57, R58, R146). -/
def Source.isNan (f : Source) (w : Nat) : Bool :=
  match f.fields with
  | some (k, fr) => !formatFinite k fr w && fracField fr w != 0
  | none => false

/-- Whether the operand is a signaling NaN: the highest bit of its fraction is clear (R146). -/
def Source.isSnan (f : Source) (w : Nat) : Bool :=
  match f.fields with
  | some (k, fr) => !formatFinite k fr w && fracField fr w != 0 && !w.testBit (fr - 1)
  | none => false

/-- A memory operand's place on the affine line (R145, R280 (b)). -/
def Source.affine (f : Source) (w : Nat) : WithBot (WithTop ℚ) :=
  match f.fields with
  | some (k, fr) =>
    if f.isInf w then (if signField k fr w then ⊥ else ((⊤ : WithTop ℚ) : WithBot (WithTop ℚ)))
    else ((f.val w : WithTop ℚ) : WithBot (WithTop ℚ))
  | none => ((f.val w : WithTop ℚ) : WithBot (WithTop ℚ))

/-! ## Rounding (R130, R131) -/

/-- A number of `p` significant bits with unbounded exponent (R122, R130). -/
def Representable (p : Nat) (z : ℝ) : Prop := ∃ n k : ℤ, |n| < 2 ^ p ∧ z = n * 2 ^ k

/-- A `p`-bit number whose least significant bit is zero (R130). -/
def EvenSignificand (p : Nat) (z : ℝ) : Prop := ∃ n k : ℤ, 2 ^ (p - 1) ≤ |n| ∧ |n| < 2 ^ p ∧ Even n ∧ z = n * 2 ^ k

/-- Table 2-5 over a set of candidates: `y` is the rounding of `x` among the numbers that satisfy `C`, with `E` telling
the even ones. -/
def RoundsAmong (C E : ℝ → Prop) (rc : Rounding) (x y : ℝ) : Prop :=
  C y ∧
    match rc with
    | .down => y ≤ x ∧ ∀ z, C z → z ≤ x → z ≤ y
    | .up => x ≤ y ∧ ∀ z, C z → x ≤ z → y ≤ z
    | .chop => |y| ≤ |x| ∧ 0 ≤ x * y ∧ ∀ z, C z → 0 ≤ x * z → |z| ≤ |x| → |z| ≤ |y|
    | .nearest => (∀ z, C z → |x - y| ≤ |x - z|) ∧ ((∃ z, C z ∧ z ≠ y ∧ |x - z| = |x - y|) → E y)

/-- `round` of R130: `y` is `x` rounded to `p` significant bits under `rc`. -/
def RoundsTo (rc : Rounding) (p : Nat) (x y : ℝ) : Prop := RoundsAmong (Representable p) (EvenSignificand p) rc x y

/-- `round_int` of R131: `y` is `x` rounded to an integer under `rc`. -/
def RoundsToInt (rc : Rounding) (x : ℝ) (y : ℤ) : Prop :=
  RoundsAmong (fun z => ∃ n : ℤ, z = n) (fun z => ∃ n : ℤ, Even n ∧ z = n) rc x y

/-- The magnitudes that an exact magnitude of the model may stand for. -/
def Mag.Denotes (m : Mag) (x : ℝ) : Prop :=
  if m.more then (m.n : ℝ) * 2 ^ m.k < x ∧ x < (m.n + 1 : ℝ) * 2 ^ m.k else x = (m.n : ℝ) * 2 ^ m.k

/-- The signed value of a rounded magnitude. -/
def Rounded.val (r : Rounded) (neg : Bool) : ℚ := signOf neg * (r.n * 2 ^ r.k)

end Sys2Proof
end

