-- ==== Sys2Proof/Certificates/Slice0/Obligations.lean ====
section
/-! DEFINITION. The statements for the provers. -/

open Sys2Proof Sys2Proof.Machine

/-! ## Encoding -/

/-- R90 to R97, R106: decoding the bytes of a well-formed instruction gives it back, and leaves what follows.  A
well-formed instruction has at most 15 bytes, which is the model's choice (log entry 8). -/
def Obligations.EncodeThenDecode : Prop :=
  ∀ (default32 : Bool) (i : Instr) (rest : List Byte),
    i.wf default32 = true → decode default32 (i.encode ++ rest) = .ok (i, rest)

/-- R90 to R97, R106: the decoder takes from a byte string exactly the bytes of the instruction it answers, and that
instruction's memory operand has the form the address size admits. -/
def Obligations.DecodeThenEncode : Prop :=
  ∀ (default32 : Bool) (bs rest : List Byte) (i : Instr), decode default32 bs = .ok (i, rest) →
    bs = i.encode ++ rest ∧ i.form.wf (addrSize32 default32 i.prefixes) = true

/-- Words written out from the encodings of R98 to R104 and R110, one per family, decode to their instructions. -/
def Obligations.WordsOfTheSpecDecode : Prop :=
  decode true [0xD9, 0x86, 0x06, 0x00, 0x00, 0x00] = .ok (.fldM32 [] (.a32 (.reg .esi (.full 6))), [])
    ∧ decode true [0xD8, 0xC2] = .ok (.faddStSti [] 2, [])
    ∧ decode true [0x2E, 0xDC, 0x96, 0x08, 0x00, 0x00, 0x00]
        = .ok (.fcomM64 [.seg .cs] (.a32 (.reg .esi (.full 8))), [])
    ∧ decode true [0xD9, 0xFE] = .ok (.fsin [], [])
    ∧ decode true [0xD9, 0xEE] = .ok (.fldz [], [])
    ∧ decode false [0xD9, 0x3C] = .ok (.fnstcw [] (.a16 (.based .si .none)), [])
    ∧ decode false [0x9B] = .ok (.wait [], [])

/-! ## The step -/

/-- R40, R106: where no act of the environment is due, a step is the execution of the well-formed instruction that the
bytes at CS:EIP decode to, none of them stored by the program; the step itself only takes the empty input off the list,
and after interrupt 9 draws the numeric state anew first.  The list of inputs and that draw are the model's (log entries
13 and 14). -/
def Obligations.StepExecutesTheDecodedInstruction : Prop :=
  ∀ (s : State) (i : Instr) (rest : List Byte), (∀ e l, s.inputs ≠ some e :: l) →
    s.dropInput.fetch = .ok (i, rest) → i.wf s.code32 = true → s.dropInput.codeStored i.length = false →
      step s = exec i s.dropInput.unsettle ∧ s.dropInput.inputs = s.inputs.tail
        ∧ (s.overrun = false → s.dropInput.unsettle = s.dropInput)

/-! ## Reset and the invariant -/

/-- R44, R461: the numeric processor after RESET, and the state after reset is sound. -/
def Obligations.ResetIsSoundAndAsTheSpecSays : Prop :=
  State.reset.cw = 0x037E ∧ State.reset.sw.toBits = 0x8081 ∧ State.reset.tagWord = 0xFFFF
    ∧ State.reset.errorPin = true ∧ State.reset.cr0.et = true ∧ State.reset.Sound

/-- R18: at every moment ES is set exactly when some flag is set whose mask is clear, B is ES, and ERROR# is active
exactly then.  The canonical form of memory, kept with it, is the model's way to write memory down. -/
def Obligations.EveryStepKeepsSound : Prop :=
  ∀ s t : State, s.Sound → step s = .next t →
    t.Sound
      ∧ (t.errorPin = true ↔ ∃ x, t.sw.flag x = true ∧ masked t.cw x = false)
      ∧ t.sw.es = t.errorPin ∧ t.sw.busy = t.errorPin

/-! ## Interrupts -/

/-- R430: with EM or TS set every ESC instruction takes interrupt 7, and WAIT takes it when MP and TS are both set.
R462, U12: with ET clear an ESC instruction that interrupt 7 does not take is refused. -/
def Obligations.EscPassesTheGatesOfCrZero : Prop :=
  ∀ (i : Instr) (s : State),
    (i.form ≠ .wait → s.cr0.em = true ∨ s.cr0.ts = true → exec i s = .next (s.takeTrap .notAvailable))
      ∧ (i.form = .wait → s.cr0.mp = true → s.cr0.ts = true → exec i s = .next (s.takeTrap .notAvailable))
      ∧ (i.form ≠ .wait → s.cr0.em = false → s.cr0.ts = false → s.cr0.et = false →
          exec i s = .refused .protocol80287)

/-- R425, R434: with ERROR# active every ESC instruction but the seven no-wait ones takes interrupt 16, once the test of
interrupt 7 has passed; so does WAIT, whatever EM is (R360).  The operands that a program has to wait for are then
forgotten (R474).  That with EM set R446's "WAIT does not trap" is read as interrupt 7 not being taken is log entry
31. -/
def Obligations.PendingErrorTakesInterruptSixteen : Prop :=
  ∀ (i : Instr) (s : State), s.sw.es = true →
    (i.form ≠ .wait → noWait i = false → s.cr0.em = false → s.cr0.ts = false → s.cr0.et = true →
        exec i s = .next (s.synced.takeTrap .numericError))
      ∧ (i.form = .wait → (s.cr0.mp && s.cr0.ts) = false → exec i s = .next (s.synced.takeTrap .numericError))

/-- The tests before an ESC instruction that is not one of the seven no-wait ones (R430, R425): interrupt 7 with EM or TS
set, and interrupt 16 with ERROR# active. -/
def Sys2Proof.Machine.escGates (i : Instr) (s : State) : Prop :=
  (s.cr0.em = true ∨ s.cr0.ts = true → exec i s = .next (s.takeTrap .notAvailable))
    ∧ (s.cr0.em = false → s.cr0.ts = false → s.cr0.et = true → s.sw.es = true →
        exec i s = .next (s.synced.takeTrap .numericError))

/-- R425, R427, R428, R440: taking interrupt 7, 13, 16 or the page fault, which is what `takeTrap` is for, sends control
to the handler with interrupts disabled and keeps the address of the interrupted instruction; no register of the numeric
processor changes; and IRET resumes at that instruction, in the state it was interrupted in.  The machine never takes
interrupt 9 so, but by `takeOverrun` (R431, log entry 14).  Where the return link is kept, and that memory and the
general registers are as before, is the model's choice (log entry 12). -/
def Obligations.InterruptEntryAndReturn : Prop :=
  ∀ (s : State) (v : Trap) (l : List (Option Event)),
    let t := s.takeTrap v
    t.seg.cs = (s.gates.get v).cs ∧ t.eip = (s.gates.get v).eip ∧ t.flags.intf = false
      ∧ (∃ k, t.links = k :: s.links ∧ k.trap = v ∧ k.cs = s.seg.cs ∧ k.eip = s.eip ∧ k.intf = s.flags.intf)
      ∧ t.regs = s.regs ∧ t.empty = s.empty ∧ t.sw = s.sw ∧ t.cw = s.cw ∧ s.KeepsPointers t ∧ t.mem = s.mem
      ∧ t.gpr = s.gpr ∧ t.cr0 = s.cr0
      ∧ step { t with inputs := some .iret :: l } = .next { s with inputs := l }

/-- R432, R433, R434: an instruction whose operand's beginning cannot be reached takes interrupt 13 or the page fault
before anything else happens: no register of the numeric processor has changed, and the return address is the
instruction's own.  That the page fault too finds the instruction not executed is decision D31; that segmentation is
tested on the first word, and before paging, which is tested on the first doubleword, is log entry 9; and that no byte of
memory has changed at the entry is log entry 12. -/
def Obligations.DeniedFirstWordTrapsUnexecuted : Prop :=
  ∀ (i : Instr) (s : State) (a : Access) (v : Trap), s.access i = some a → s.Ready (!noWait i) →
    s.firstFault (s.place i.prefixes a.mem) a.write a.size = some v →
      ∃ t, exec i s = .next t ∧ (v = .generalProtection ∨ v = .pageFault)
        ∧ t.regs = s.regs ∧ t.empty = s.empty ∧ t.sw = s.sw ∧ t.cw = s.cw ∧ s.KeepsPointers t ∧ t.mem = s.mem
        ∧ t.seg.cs = (s.gates.get v).cs ∧ t.eip = (s.gates.get v).eip
        ∧ ∃ l, t.links = l :: s.links ∧ l.trap = v ∧ l.cs = s.seg.cs ∧ l.eip = s.eip

/-- R431: an instruction whose operand's beginning can be reached and a later part cannot takes interrupt 9.  A load
then changes no memory; FNSTENV and FNSAVE, which always store, change none but the bytes of their operand that can be
reached.  What the beginning is, the first word for segmentation and the first doubleword for paging, is log entry 9,
that the entry itself writes nothing is log entry 12, and `overrun` is the model's record of the unreliable state (log
entry 14). -/
def Obligations.DeniedLaterPartTakesInterruptNine : Prop :=
  ∀ (i : Instr) (s : State) (m : MemOp) (n : Nat),
    (s.access i = some ⟨m, false, n⟩ → s.Ready true →
      s.firstFault (s.place i.prefixes m) false n = none → s.laterFault (s.place i.prefixes m) false n = true →
        ∃ t, exec i s = .next t ∧ t.mem = s.mem ∧ t.overrun = true
          ∧ t.seg.cs = s.gates.segmentOverrun.cs ∧ t.eip = s.gates.segmentOverrun.eip
          ∧ ∃ l, t.links = l :: s.links ∧ l.trap = .segmentOverrun)
      ∧ (s.access i = some ⟨m, true, n⟩ → noWait i = true → s.Ready false →
          s.firstFault (s.place i.prefixes m) true n = none → s.laterFault (s.place i.prefixes m) true n = true →
            ∃ t, exec i s = .next t ∧ s.KeepsMemory t (s.reachable (s.place i.prefixes m) n) ∧ t.overrun = true
              ∧ t.seg.cs = s.gates.segmentOverrun.cs ∧ t.eip = s.gates.segmentOverrun.eip
              ∧ ∃ l, t.links = l :: s.links ∧ l.trap = .segmentOverrun)

/-- R105: a reserved encoding that reaches the numeric processor is a fault; the processor's own gates come first. -/
def Obligations.ReservedEncodingFaults : Prop :=
  ∀ (i : Instr) (s : State), reserved i = true →
    (s.Ready true → exec i s = .fault .reservedEncoding)
      ∧ (s.cr0.em = true ∨ s.cr0.ts = true → exec i s = .next (s.takeTrap .notAvailable))

/-! ## What instructions leave unchanged -/

/-- Every instruction changes no byte of memory but those of an operand it stores to.  Where it takes an interrupt, that
the entry pushes nothing is log entry 12's choice. -/
def Obligations.OnlyTheStoredOperandChanges : Prop :=
  ∀ (i : Instr) (s t : State), exec i s = .next t → s.KeepsMemory t (s.storeAddrs i)

/-- The registers an instruction may write, by its place on the stack before it (R12, R13). -/
def Sys2Proof.Machine.resultRegs (s : State) : Instr → List (Fin 8)
  | .faddM32 _ _ | .fmulM32 _ _ | .fsubM32 _ _ | .fsubrM32 _ _ | .fdivM32 _ _ | .fdivrM32 _ _
  | .faddM64 _ _ | .fmulM64 _ _ | .fsubM64 _ _ | .fsubrM64 _ _ | .fdivM64 _ _ | .fdivrM64 _ _
  | .fiaddI32 _ _ | .fimulI32 _ _ | .fisubI32 _ _ | .fisubrI32 _ _ | .fidivI32 _ _ | .fidivrI32 _ _
  | .fiaddI16 _ _ | .fimulI16 _ _ | .fisubI16 _ _ | .fisubrI16 _ _ | .fidivI16 _ _ | .fidivrI16 _ _
  | .faddStSti _ _ | .fmulStSti _ _ | .fsubStSti _ _ | .fsubrStSti _ _ | .fdivStSti _ _ | .fdivrStSti _ _
  | .fchs _ | .fabs _ | .fsqrt _ | .frndint _ | .fscale _ | .fprem _ | .fprem1 _ | .f2xm1 _ | .fsin _ | .fcos _ =>
    [s.phys 0]
  | .faddStiSt _ i | .fmulStiSt _ i | .fsubStiSt _ i | .fsubrStiSt _ i | .fdivStiSt _ i | .fdivrStiSt _ i
  | .faddp _ i | .fmulp _ i | .fsubp _ i | .fsubrp _ i | .fdivp _ i | .fdivrp _ i | .fstSti _ i | .fstpSti _ i =>
    [s.phys i]
  | .fxch _ i => [s.phys 0, s.phys i]
  | .fldM32 _ _ | .fldM64 _ _ | .fldM80 _ _ | .fildI16 _ _ | .fildI32 _ _ | .fildI64 _ _ | .fbld _ _ | .fldSti _ _
  | .fld1 _ | .fldl2t _ | .fldl2e _ | .fldpi _ | .fldlg2 _ | .fldln2 _ | .fldz _ => [s.phys 7]
  | .fxtract _ | .fptan _ | .fsincos _ => [s.phys 0, s.phys 7]
  | .fpatan _ | .fyl2x _ | .fyl2xp1 _ => [s.phys 1]
  | .frstor _ _ => List.finRange 8
  | _ => []

/-- The registers whose tags an instruction may change beside those: the ones it pops or frees, or all (R30). -/
def Sys2Proof.Machine.retaggedRegs (s : State) : Instr → List (Fin 8)
  | .faddp _ _ | .fmulp _ _ | .fsubp _ _ | .fsubrp _ _ | .fdivp _ _ | .fdivrp _ _ | .fstpSti _ _ | .fstpM32 _ _
  | .fstpM64 _ _ | .fstpM80 _ _ | .fistpI16 _ _ | .fistpI32 _ _ | .fistpI64 _ _ | .fbstp _ _ | .fcompM32 _ _
  | .fcompM64 _ _ | .fcompSti _ _ | .ficompI16 _ _ | .ficompI32 _ _ | .fucompSti _ _ | .fpatan _ | .fyl2x _
  | .fyl2xp1 _ => [s.phys 0]
  | .fcompp _ | .fucompp _ => [s.phys 0, s.phys 1]
  | .ffree _ i => [s.phys i]
  | .fninit _ | .fnsave _ _ | .fldenv _ _ | .frstor _ _ => List.finRange 8
  | _ => []

/-- Every instruction changes no data register but its results, and no tag but theirs and those it pops, frees or
loads; interrupt 9, which leaves the whole state unreliable (R431), apart. -/
def Obligations.OnlyResultRegistersChange : Prop :=
  ∀ (i : Instr) (s t : State), exec i s = .next t → t.overrun = false →
    s.KeepsRegs t (resultRegs s i) ∧ s.KeepsTags t (resultRegs s i ++ retaggedRegs s i)

/-- R17: a flag once set stays set, SF too (D8), but for the five instructions that clear or load them; PE of F2XM1 and
FYL2XP1, which is undefined for an operand out of range (D26), and interrupt 9 apart. -/
def Obligations.FlagsAreSticky : Prop :=
  ∀ (i : Instr) (s t : State), exec i s = .next t → t.overrun = false →
    (match i with
      | .fninit _ | .fnclex _ | .fldenv _ _ | .fnsave _ _ | .frstor _ _ => False
      | _ => True) →
    (s.sw.sf = true → t.sw.sf = true)
      ∧ ∀ x, s.sw.flag x = true →
          (match i with
            | .f2xm1 _ | .fyl2xp1 _ => x ≠ .pe
            | _ => True) → t.sw.flag x = true

/-- R22: no instruction but FLDCW, FLDENV, FRSTOR, FINIT, FSAVE and FSTENV changes the control word; FSTENV changes
only the six masks, to 1 (R342). -/
def Obligations.OnlyControlInstructionsChangeTheControlWord : Prop :=
  ∀ (i : Instr) (s t : State), exec i s = .next t → t.overrun = false →
    match i with
    | .fldcw _ _ | .fldenv _ _ | .frstor _ _ | .fninit _ | .fnsave _ _ => True
    | .fnstenv _ _ => t.cw = s.cw ∨ t.cw = s.cw ||| 0x3F
    | _ => t.cw = s.cw

/-- R41: no instruction but FNSTSW AX changes a general register, and that one changes only AX; none changes mode, CR0,
handlers, paging or inputs; and an instruction that is not interrupted (it leaves the return links as they are) changes
no segment register and no processor flag, and goes on at the next instruction (R40).  That ESP and the mode stay when
it is interrupted is log entry 12's choice. -/
def Obligations.ProcessorStateIsKept : Prop :=
  ∀ (i : Instr) (s t : State), exec i s = .next t →
    (match i with
      | .fnstswAx _ => { t.gpr with eax := 0 } = { s.gpr with eax := 0 }
          ∧ t.gpr.eax.extractLsb' 16 16 = s.gpr.eax.extractLsb' 16 16
      | _ => t.gpr = s.gpr)
      ∧ t.mode = s.mode ∧ t.cr0 = s.cr0 ∧ t.gates = s.gates ∧ t.denied = s.denied ∧ t.params = s.params
      ∧ t.inputs = s.inputs
      ∧ (t.links = s.links → t.seg = s.seg ∧ t.flags = s.flags ∧ s.Advanced t i)

/-- The instructions that leave the exception pointers alone (R37; D4 for FIP and FOP). -/
def Sys2Proof.Machine.keepsPointers : Instr → Bool
  | .fninit _ | .fldcw _ _ | .fnstcw _ _ | .fnstswM16 _ _ | .fnstswAx _ | .fnclex _ | .fnstenv _ _ | .fnsave _ _
  | .wait _ => true
  | _ => false

/-- R36, R37: the listed control instructions leave FIP, FOP and FDP alone; FLDENV and FRSTOR load them; every other
instruction that is not interrupted records its own address, its opcode and its memory operand's address. -/
def Obligations.ExceptionPointersAreRecorded : Prop :=
  ∀ (i : Instr) (s t : State), exec i s = .next t → t.overrun = false →
    (keepsPointers i = true → s.KeepsPointers t)
      ∧ (t.links ≠ s.links → s.KeepsPointers t)
      ∧ (t.links = s.links → keepsPointers i = false →
          (match i with
            | .fldenv _ _ | .frstor _ _ => False
            | _ => True) →
          t.fip = ⟨s.seg.cs.sel, s.eip⟩ ∧ t.fop = i.fop
            ∧ ∀ a, s.access i = some a → t.fdp = (s.place i.prefixes a.mem).ptr)

/-! ## Loads -/

/-- R201 for a single or double operand that is a number: its value is pushed exactly; a denormal raises DE, masked
here. -/
def Obligations.FldRealPushesTheValue : Prop :=
  ∀ (p : List Prefix) (m : MemOp) (s : State) (i : Instr) (n k fr : Nat),
    (i = .fldM32 p m ∧ n = 4 ∧ k = 8 ∧ fr = 23) ∨ (i = .fldM64 p m ∧ n = 8 ∧ k = 11 ∧ fr = 52) →
    let w := leNat (s.readPlace (s.place p m) n)
    s.Ready true → s.Reachable p m false n → s.full7 = false → formatFinite k fr w = true →
    masked s.cw .de = true →
      ∃ t v, exec i s = .next t ∧ s.Pushed t i v
        ∧ v.ordinary = true ∧ v.val = formatVal k fr w ∧ v.sign = signField k fr w
        ∧ s.Raised t (if formatDenormal k fr w then [.de] else [])

/-- R201 for an extended operand, R202: eighty bits are pushed as they are, whatever their class, and nothing is
raised. -/
def Obligations.FldExtendedAndRegisterPushTheirBits : Prop :=
  ∀ (p : List Prefix) (s : State), s.Ready true → s.full7 = false →
    (∀ m, s.Reachable p m false 10 →
        ∃ t, exec (.fldM80 p m) s = .next t
          ∧ s.Pushed t (.fldM80 p m) (extOfBytes (s.readPlace (s.place p m) 10)) ∧ s.Raised t [])
      ∧ ∀ j, s.stEmpty j = false →
        ∃ t, exec (.fldSti p j) s = .next t ∧ s.Pushed t (.fldSti p j) (s.st j) ∧ s.Raised t []

/-- R207: FILD pushes the integer, exactly, +0 for 0, and raises nothing. -/
def Obligations.FildPushesTheInteger : Prop :=
  ∀ (p : List Prefix) (m : MemOp) (s : State) (i : Instr) (n : Nat),
    (i = .fildI16 p m ∧ n = 2) ∨ (i = .fildI32 p m ∧ n = 4) ∨ (i = .fildI64 p m ∧ n = 8) →
    s.Ready true → s.Reachable p m false n → s.full7 = false →
      let z : Int := (BitVec.ofNat (8 * n) (leNat (s.readPlace (s.place p m) n))).toInt
      ∃ t v, exec i s = .next t ∧ s.Pushed t i v ∧ s.Raised t []
        ∧ v.ordinary = true ∧ v.val = z ∧ (v.sign = true ↔ z < 0)

/-- R210: FBLD pushes the number of eighteen valid digits, with the sign of the operand, and raises nothing; with a bad
digit it pushes some value all the same (U6). -/
def Obligations.FbldPushesTheDecimal : Prop :=
  ∀ (p : List Prefix) (m : MemOp) (s : State), s.Ready true → s.Reachable p m false 10 → s.full7 = false →
    let w := leNat (s.readPlace (s.place p m) 10)
    ∃ t v, exec (.fbld p m) s = .next t ∧ s.Pushed t (.fbld p m) v ∧ s.Raised t []
      ∧ ((∀ k, k < 18 → w / 16 ^ k % 16 ≤ 9) →
          v.ordinary = true ∧ v.sign = w.testBit 79 ∧ v.val = signOf (w.testBit 79) * decimalVal w)

/-- The constant instructions with the biased exponent, the chopped significand, and whether rounding to nearest adds
one unit to it (the table of R321 (d)); the last is `none` for the exact ones. -/
def Sys2Proof.Machine.constantTable : Instr → Option (Nat × Nat × Option Bool)
  | .fldz _ => some (0x0000, 0x0000000000000000, none)
  | .fld1 _ => some (0x3FFF, 0x8000000000000000, none)
  | .fldpi _ => some (0x4000, 0xC90FDAA22168C234, some true)
  | .fldl2t _ => some (0x4000, 0xD49A784BCD1B8AFE, some false)
  | .fldl2e _ => some (0x3FFF, 0xB8AA3B295C17F0BB, some true)
  | .fldlg2 _ => some (0x3FFD, 0x9A209A84FBCFF798, some true)
  | .fldln2 _ => some (0x3FFE, 0xB17217F7D1CF79AB, some true)
  | _ => none

/-- R321 to R328: the constant instructions push the table's patterns by rounding mode; PE is not raised and C1 is 0.
The irrational ones rest on decision D7 and on digits that the spec takes from general knowledge (G5; log entry 26). -/
def Obligations.ConstantsPushTheTablesPatterns : Prop :=
  ∀ (i : Instr) (s : State) (e sig : Nat) (near : Option Bool), constantTable i = some (e, sig, near) →
    s.Ready true → s.full7 = false →
      let up : Bool :=
        match near, s.rc with
        | none, _ => false
        | some n, .nearest => n
        | some _, .up => true
        | some _, .down => false
        | some _, .chop => false
      ∃ t, exec i s = .next t
        ∧ s.Pushed t i ⟨false, BitVec.ofNat 15 e, BitVec.ofNat 64 (sig + up.toNat)⟩ ∧ s.Raised t []

/-- The instructions that do nothing but push (R201, R202, R207, R210, R321). -/
def Sys2Proof.Machine.pushesOnly : Instr → Bool
  | .fldM32 _ _ | .fldM64 _ _ | .fldM80 _ _ | .fildI16 _ _ | .fildI32 _ _ | .fildI64 _ _ | .fbld _ _ | .fldSti _ _
  | .fld1 _ | .fldl2t _ | .fldl2e _ | .fldpi _ | .fldlg2 _ | .fldln2 _ | .fldz _ => true
  | _ => false

/-- R14, R410: a push onto a register that is not empty is a stack overflow.  Masked, the indefinite is pushed;
unmasked, TOP and every register stay as they are. -/
def Obligations.PushOntoAFullRegisterOverflows : Prop :=
  ∀ (i : Instr) (s : State), pushesOnly i = true → s.Ready true → s.OperandReachable i → s.full7 = true →
    (∀ p j, i = .fldSti p j → s.stEmpty j = false) →
      ∃ t, exec i s = .next t ∧ s.StackFaulted t true ∧ s.CompletedNumeric t i ∧ s.KeepsMemory t []
        ∧ (masked s.cw .ie = true →
            t.sw.top = s.sw.top - 1 ∧ t.st 0 = indefinite ∧ s.KeepsRegs t [s.phys 7] ∧ s.KeepsTags t [])
        ∧ (masked s.cw .ie = false → t.sw.top = s.sw.top ∧ s.KeepsRegs t [] ∧ s.KeepsTags t [])

/-! ## Stores to memory -/

/-- What a completed store leaves: `n` bytes at the operand's address with the value `w`, no other byte changed, no
register written, `pops` pops. -/
def Sys2Proof.Machine.storedAs (s t : State) (i : Instr) (m : MemOp) (n w pops : Nat) : Prop :=
  let as := s.placeAddrs (s.place i.prefixes m) n
  leNat (readBytes t.mem as) = w ∧ s.KeepsMemory t as ∧ s.KeepsRegs t [] ∧ s.Popped t none pops
    ∧ s.CompletedNumeric t i

/-- R203, R204, R206: the moves of eighty bits.  FST and FSTP copy them to ST(i) and FSTP to an extended operand, FSTP
then pops, and FXCH exchanges two registers, whatever the patterns are; nothing is raised. -/
def Obligations.MovesKeepEveryBit : Prop :=
  ∀ (p : List Prefix) (j : Fin 8) (m : MemOp) (s : State), s.Sound → s.Ready true → s.stEmpty 0 = false →
    (∀ i pops, (i = .fstSti p j ∧ pops = 0) ∨ (i = .fstpSti p j ∧ pops = 1) →
        ∃ t, exec i s = .next t ∧ t.reg (s.phys j) = s.st 0 ∧ s.KeepsRegs t [s.phys j]
          ∧ s.Popped t (some (s.phys j)) pops ∧ t.sw.c1 = false ∧ s.Raised t [] ∧ s.KeepsMemory t []
          ∧ s.CompletedNumeric t i)
      ∧ (s.stEmpty j = false →
          ∃ t, exec (.fxch p j) s = .next t ∧ t.st 0 = s.st j ∧ t.st j = s.st 0
            ∧ s.KeepsRegs t [s.phys 0, s.phys j] ∧ s.KeepsTags t [] ∧ t.sw.top = s.sw.top ∧ t.sw.c1 = false
            ∧ s.Raised t [] ∧ s.KeepsMemory t [] ∧ s.CompletedNumeric t (.fxch p j))
      ∧ (s.Reachable p m true 10 →
          ∃ t, exec (.fstpM80 p m) s = .next t ∧ storedAs s t (.fstpM80 p m) m 10 (extToNat (s.st 0)) 1
            ∧ t.sw.c1 = false ∧ s.Raised t [])

/-- R203, R204: FST and FSTP of a zero or of a normal number whose value is within the range of the destination store
it rounded to 24 or 53 bits under RC; C1 and PE tell how it was rounded. -/
def Obligations.FstRealStoresTheRoundedValue : Prop :=
  ∀ (p : List Prefix) (m : MemOp) (s : State) (i : Instr) (n k fr pops : Nat),
    (i = .fstM32 p m ∧ n = 4 ∧ k = 8 ∧ fr = 23 ∧ pops = 0) ∨ (i = .fstpM32 p m ∧ n = 4 ∧ k = 8 ∧ fr = 23 ∧ pops = 1)
      ∨ (i = .fstM64 p m ∧ n = 8 ∧ k = 11 ∧ fr = 52 ∧ pops = 0)
      ∨ (i = .fstpM64 p m ∧ n = 8 ∧ k = 11 ∧ fr = 52 ∧ pops = 1) →
    s.Sound → s.Ready true → s.Reachable p m true n → s.stEmpty 0 = false → (s.st 0).ordinary = true →
    ((s.st 0).isZero = true ∨ (2 ^ (2 - 2 ^ (k - 1) : ℤ) ≤ |(s.st 0).val| ∧ |(s.st 0).val| < 2 ^ (2 ^ (k - 1) - 1 : ℤ))) →
      ∃ t w, exec i s = .next t ∧ storedAs s t i m n w pops
        ∧ formatFinite k fr w = true ∧ signField k fr w = (s.st 0).sign
        ∧ RoundsTo s.rc (fr + 1) ((s.st 0).val : ℝ) (formatVal k fr w : ℝ)
        ∧ s.Raised t (if formatVal k fr w = (s.st 0).val then [] else [.pe])
        ∧ (t.sw.c1 = true ↔ |(s.st 0).val| < |formatVal k fr w|)

/-- R203, R204: an unmasked overflow or underflow keeps a real store from being done: no byte stored, no pop. -/
def Obligations.UnmaskedOverflowStoresNothing : Prop :=
  ∀ (p : List Prefix) (m : MemOp) (s : State) (i : Instr) (n k : Nat),
    ((i = .fstM32 p m ∨ i = .fstpM32 p m) ∧ n = 4 ∧ k = 8) ∨ ((i = .fstM64 p m ∨ i = .fstpM64 p m) ∧ n = 8 ∧ k = 11) →
    s.Ready true → s.Reachable p m true n → s.stEmpty 0 = false → classify (s.st 0) = .normal →
    ∀ x : Exc,
      (x = .oe ∧ 2 ^ (2 ^ (k - 1) : ℤ) ≤ |(s.st 0).val|)
        ∨ (x = .ue ∧ |(s.st 0).val| < 2 ^ (1 - 2 ^ (k - 1) : ℤ)) →
      masked s.cw x = false →
        ∃ t, exec i s = .next t ∧ s.KeepsMemory t [] ∧ s.KeepsRegs t [] ∧ s.Popped t none 0 ∧ s.Raised t [x]
          ∧ s.CompletedNumeric t i

/-- R208, R209: FIST and FISTP store the value rounded to an integer under RC, in two's complement, when the integer is
in range; out of range, or for an infinity or a NaN, they store the integer indefinite with IE masked, and nothing
without. -/
def Obligations.FistStoresTheRoundedInteger : Prop :=
  ∀ (p : List Prefix) (m : MemOp) (s : State) (i : Instr) (n pops : Nat),
    (i = .fistI16 p m ∧ n = 2 ∧ pops = 0) ∨ (i = .fistI32 p m ∧ n = 4 ∧ pops = 0)
      ∨ (i = .fistpI16 p m ∧ n = 2 ∧ pops = 1) ∨ (i = .fistpI32 p m ∧ n = 4 ∧ pops = 1)
      ∨ (i = .fistpI64 p m ∧ n = 8 ∧ pops = 1) →
    s.Sound → s.Ready true → s.Reachable p m true n → s.stEmpty 0 = false →
      (∀ z : ℤ, (s.st 0).isZero = true ∨ (s.st 0).isFiniteNonzero = true → RoundsToInt s.rc ((s.st 0).val : ℝ) z →
          -(2 ^ (8 * n - 1) : ℤ) ≤ z → z ≤ 2 ^ (8 * n - 1) - 1 →
            ∃ t, exec i s = .next t ∧ storedAs s t i m n (BitVec.ofInt (8 * n) z).toNat pops
              ∧ s.Raised t (if (z : ℚ) = (s.st 0).val then [] else [.pe])
              ∧ (t.sw.c1 = true ↔ |(s.st 0).val| < |(z : ℚ)|))
        ∧ ((s.st 0).isNan = true ∨ (s.st 0).isInf = true ∨ (s.st 0).isUnsupported = true
              ∨ ((s.st 0).isFiniteNonzero = true
                  ∧ ∃ z : ℤ, RoundsToInt s.rc ((s.st 0).val : ℝ) z
                    ∧ (z < -(2 ^ (8 * n - 1) : ℤ) ∨ 2 ^ (8 * n - 1) - 1 < z)) →
            ∃ t, exec i s = .next t ∧ s.Raised t [.ie] ∧ s.CompletedNumeric t i ∧ s.KeepsRegs t []
              ∧ (masked s.cw .ie = true → storedAs s t i m n (2 ^ (8 * n - 1)) pops)
              ∧ (masked s.cw .ie = false → s.KeepsMemory t [] ∧ s.Popped t none 0))

/-- R211: FBSTP stores the value rounded to an integer under RC as a sign and eighteen decimal digits, and pops; when
the integer has more digits, or for an infinity, a NaN or an unsupported pattern, it stores the decimal indefinite, whose
two high bytes are FFH, with IE masked, and nothing without. -/
def Obligations.FbstpStoresTheRoundedDecimal : Prop :=
  ∀ (p : List Prefix) (m : MemOp) (s : State), s.Sound → s.Ready true → s.Reachable p m true 10 →
    s.stEmpty 0 = false →
      (∀ z : ℤ, (s.st 0).isZero = true ∨ (s.st 0).isFiniteNonzero = true → RoundsToInt s.rc ((s.st 0).val : ℝ) z →
          z.natAbs ≤ 10 ^ 18 - 1 →
            ∃ t w, exec (.fbstp p m) s = .next t ∧ storedAs s t (.fbstp p m) m 10 w 1
              ∧ w.testBit 79 = (s.st 0).sign ∧ (∀ k, k < 18 → w / 16 ^ k % 16 ≤ 9) ∧ w / 2 ^ 72 % 2 ^ 7 = 0
              ∧ decimalVal w = z.natAbs
              ∧ s.Raised t (if (z : ℚ) = (s.st 0).val then [] else [.pe])
              ∧ (t.sw.c1 = true ↔ |(s.st 0).val| < |(z : ℚ)|))
        ∧ ((s.st 0).isNan = true ∨ (s.st 0).isInf = true ∨ (s.st 0).isUnsupported = true
              ∨ ((s.st 0).isFiniteNonzero = true
                  ∧ ∃ z : ℤ, RoundsToInt s.rc ((s.st 0).val : ℝ) z ∧ 10 ^ 18 - 1 < z.natAbs) →
            ∃ t, exec (.fbstp p m) s = .next t ∧ s.Raised t [.ie] ∧ s.CompletedNumeric t (.fbstp p m)
              ∧ s.KeepsRegs t []
              ∧ (masked s.cw .ie = true → ∃ w, w / 2 ^ 64 = 0xFFFF ∧ storedAs s t (.fbstp p m) m 10 w 1)
              ∧ (masked s.cw .ie = false → s.KeepsMemory t [] ∧ s.Popped t none 0))

/-! ## Arithmetic -/

/-- The basic operations on registers: destination, source, pops, and the operation on the destination's value and the
source's (R230 (b), R231 to R241, R253 to R258). -/
def Sys2Proof.Machine.registerArithmetic : Instr → Option (Fin 8 × Fin 8 × Nat × (ℚ → ℚ → ℚ))
  | .faddStSti _ i => some (0, i, 0, fun d e => d + e)
  | .fmulStSti _ i => some (0, i, 0, fun d e => d * e)
  | .fsubStSti _ i => some (0, i, 0, fun d e => d - e)
  | .fsubrStSti _ i => some (0, i, 0, fun d e => e - d)
  | .fdivStSti _ i => some (0, i, 0, fun d e => d / e)
  | .fdivrStSti _ i => some (0, i, 0, fun d e => e / d)
  | .faddStiSt _ i => some (i, 0, 0, fun d e => d + e)
  | .fmulStiSt _ i => some (i, 0, 0, fun d e => d * e)
  | .fsubStiSt _ i => some (i, 0, 0, fun d e => d - e)
  | .fsubrStiSt _ i => some (i, 0, 0, fun d e => e - d)
  | .fdivStiSt _ i => some (i, 0, 0, fun d e => d / e)
  | .fdivrStiSt _ i => some (i, 0, 0, fun d e => e / d)
  | .faddp _ i => some (i, 0, 1, fun d e => d + e)
  | .fmulp _ i => some (i, 0, 1, fun d e => d * e)
  | .fsubp _ i => some (i, 0, 1, fun d e => d - e)
  | .fsubrp _ i => some (i, 0, 1, fun d e => e - d)
  | .fdivp _ i => some (i, 0, 1, fun d e => d / e)
  | .fdivrp _ i => some (i, 0, 1, fun d e => e / d)
  | _ => none

/-- The basic operations with a memory operand (R230 (c), R231 to R242). -/
def Sys2Proof.Machine.memoryArithmetic : Instr → Option (MemOp × Source × (ℚ → ℚ → ℚ))
  | .faddM32 _ m => some (m, .single, fun d e => d + e)
  | .fmulM32 _ m => some (m, .single, fun d e => d * e)
  | .fsubM32 _ m => some (m, .single, fun d e => d - e)
  | .fsubrM32 _ m => some (m, .single, fun d e => e - d)
  | .fdivM32 _ m => some (m, .single, fun d e => d / e)
  | .fdivrM32 _ m => some (m, .single, fun d e => e / d)
  | .faddM64 _ m => some (m, .double, fun d e => d + e)
  | .fmulM64 _ m => some (m, .double, fun d e => d * e)
  | .fsubM64 _ m => some (m, .double, fun d e => d - e)
  | .fsubrM64 _ m => some (m, .double, fun d e => e - d)
  | .fdivM64 _ m => some (m, .double, fun d e => d / e)
  | .fdivrM64 _ m => some (m, .double, fun d e => e / d)
  | .fiaddI32 _ m => some (m, .int32, fun d e => d + e)
  | .fimulI32 _ m => some (m, .int32, fun d e => d * e)
  | .fisubI32 _ m => some (m, .int32, fun d e => d - e)
  | .fisubrI32 _ m => some (m, .int32, fun d e => e - d)
  | .fidivI32 _ m => some (m, .int32, fun d e => d / e)
  | .fidivrI32 _ m => some (m, .int32, fun d e => e / d)
  | .fiaddI16 _ m => some (m, .int16, fun d e => d + e)
  | .fimulI16 _ m => some (m, .int16, fun d e => d * e)
  | .fisubI16 _ m => some (m, .int16, fun d e => d - e)
  | .fisubrI16 _ m => some (m, .int16, fun d e => e - d)
  | .fidivI16 _ m => some (m, .int16, fun d e => d / e)
  | .fidivrI16 _ m => some (m, .int16, fun d e => e / d)
  | _ => none

/-- A nonzero result that neither overflows nor is tiny (R134, R137). -/
def Sys2Proof.Machine.inRange (e : ℚ) : Prop := 2 ^ (-16382 : ℤ) ≤ |e| ∧ |e| < 2 ^ (16383 : ℤ)

/-- A rounded result in a register (R133, R134): the exact value `e` rounded to `p` bits, PE raised when that is inexact,
C1 set when the magnitude was rounded up. -/
def Sys2Proof.Machine.rounded (s t : State) (k : Fin 8) (p : Nat) (e : ℝ) : Prop :=
  RoundsTo s.rc p e ((t.reg k).val : ℝ) ∧ classify (t.reg k) = .normal
    ∧ (((t.reg k).val : ℝ) = e → s.Raised t []) ∧ (((t.reg k).val : ℝ) ≠ e → s.Raised t [.pe])
    ∧ (t.sw.c1 = true ↔ |e| < |((t.reg k).val : ℝ)|)

/-- R120, R230: each of the eighteen register forms of add, subtract, multiply and divide delivers the exact result
rounded once to the precision PC selects, under RC, and pops where it pops. -/
def Obligations.RegisterArithmeticRoundsTheExactResult : Prop :=
  ∀ (i : Instr) (s : State) (d e : Fin 8) (pops p : Nat) (op : ℚ → ℚ → ℚ),
    registerArithmetic i = some (d, e, pops, op) → s.Ready true → pcBits s.cw = some p →
    s.stEmpty d = false → s.stEmpty e = false → (s.st d).ordinary = true → (s.st e).ordinary = true →
    inRange (op (s.st d).val (s.st e).val) →
      ∃ t, exec i s = .next t ∧ rounded s t (s.phys d) p (op (s.st d).val (s.st e).val : ℚ)
        ∧ s.KeepsRegs t [s.phys d] ∧ s.Popped t (some (s.phys d)) pops ∧ s.KeepsMemory t [] ∧ s.CompletedNumeric t i

/-- The same of the twenty-four forms with a memory operand, whose operand is first converted exactly. -/
def Obligations.MemoryArithmeticRoundsTheExactResult : Prop :=
  ∀ (i : Instr) (s : State) (m : MemOp) (f : Source) (p : Nat) (op : ℚ → ℚ → ℚ),
    memoryArithmetic i = some (m, f, op) → s.Ready true → s.Reachable i.prefixes m false f.size →
    pcBits s.cw = some p → s.stEmpty 0 = false → (s.st 0).ordinary = true →
    let w := leNat (s.readPlace (s.place i.prefixes m) f.size)
    f.ordinary w = true → inRange (op (s.st 0).val (f.val w)) →
      ∃ t, exec i s = .next t ∧ rounded s t (s.phys 0) p (op (s.st 0).val (f.val w) : ℚ)
        ∧ s.KeepsRegs t [s.phys 0] ∧ s.Popped t (some (s.phys 0)) 0 ∧ s.KeepsMemory t [] ∧ s.CompletedNumeric t i

/-- R25, U2: with PC = 01B the forty-three instructions that precision control affects are a fault. -/
def Obligations.ReservedPrecisionFaults : Prop :=
  ∀ (i : Instr) (s : State), s.cw.extractLsb' 8 2 = 1 → s.Ready true → s.OperandReachable i →
    (registerArithmetic i).isSome = true ∨ (memoryArithmetic i).isSome = true ∨ (∃ p, i = .fsqrt p) →
      exec i s = .fault .reservedPrecision

/-- R166, R230: a finite nonzero number divided by zero.  Masked, the destination is the infinity whose sign is the
exclusive or of the operands'; unmasked, nothing is written and nothing popped. -/
def Obligations.DivisionByZero : Prop :=
  ∀ (p : List Prefix) (s : State) (i : Instr) (j d dividend divisor : Fin 8) (pops : Nat),
    (i = .fdivStSti p j ∧ d = 0 ∧ dividend = 0 ∧ divisor = j ∧ pops = 0)
      ∨ (i = .fdivrStSti p j ∧ d = 0 ∧ dividend = j ∧ divisor = 0 ∧ pops = 0)
      ∨ (i = .fdivStiSt p j ∧ d = j ∧ dividend = j ∧ divisor = 0 ∧ pops = 0)
      ∨ (i = .fdivrStiSt p j ∧ d = j ∧ dividend = 0 ∧ divisor = j ∧ pops = 0)
      ∨ (i = .fdivp p j ∧ d = j ∧ dividend = j ∧ divisor = 0 ∧ pops = 1)
      ∨ (i = .fdivrp p j ∧ d = j ∧ dividend = 0 ∧ divisor = j ∧ pops = 1) →
    s.Ready true → pcBits s.cw ≠ none → s.stEmpty dividend = false → s.stEmpty divisor = false →
    (s.st dividend).isFiniteNonzero = true → (s.st divisor).isZero = true →
      ∃ t, exec i s = .next t ∧ s.Raised t [.ze] ∧ s.KeepsMemory t [] ∧ s.CompletedNumeric t i
        ∧ (masked s.cw .ze = true →
            t.reg (s.phys d) = infExt ((s.st dividend).sign != (s.st divisor).sign)
              ∧ s.KeepsRegs t [s.phys d] ∧ s.Popped t (some (s.phys d)) pops ∧ t.sw.c1 = false)
        ∧ (masked s.cw .ze = false → s.KeepsRegs t [] ∧ s.Popped t none 0)

/-- The quiet NaN that R152's table gives for a destination `x` and a source `y`, one of them a NaN and neither
unsupported; for two NaNs of one kind with equal significands it is decision D19. -/
def Sys2Proof.Machine.selectedNan (x y r : Ext) : Prop :=
  classify r = .qnan
    ∧ (y.isNan = false → r = quiet x) ∧ (x.isNan = false → r = quiet y)
    ∧ (x.isSnan = true → classify y = .qnan → r = y) ∧ (classify x = .qnan → y.isSnan = true → r = x)
    ∧ (classify x = classify y →
        (y.sig < x.sig → r = quiet x) ∧ (x.sig < y.sig → r = quiet y)
          ∧ (x.sig = y.sig → r = quiet (if x.sign then y else x)))

/-- The operands that a basic operation on registers calls invalid though neither is a NaN (R165): opposite infinities
added, like ones subtracted, a zero times an infinity, two zeros or two infinities divided. -/
def Sys2Proof.Machine.invalidOperands (i : Instr) (x y : Ext) : Bool :=
  match i with
  | .faddStSti _ _ | .faddStiSt _ _ | .faddp _ _ => x.isInf && y.isInf && x.sign != y.sign
  | .fsubStSti _ _ | .fsubStiSt _ _ | .fsubp _ _ | .fsubrStSti _ _ | .fsubrStiSt _ _ | .fsubrp _ _ =>
    x.isInf && y.isInf && x.sign == y.sign
  | .fmulStSti _ _ | .fmulStiSt _ _ | .fmulp _ _ => (x.isInf && y.isZero) || (x.isZero && y.isInf)
  | .fdivStSti _ _ | .fdivStiSt _ _ | .fdivp _ _ | .fdivrStSti _ _ | .fdivrStiSt _ _ | .fdivrp _ _ =>
    (x.isInf && y.isInf) || (x.isZero && y.isZero)
  | _ => false

/-- R151, R152, R165, R170: the NaN operands and the invalid operands of the register forms.  With a NaN and no
unsupported operand the destination is the NaN that R152 selects (D19 for equal significands), IE being raised exactly
when one of them is signaling; an unsupported operand, or two operands that the operation calls invalid, raise IE and
give the indefinite.  With IE raised and unmasked nothing is written and nothing popped. -/
def Obligations.SignalingNanIsInvalid : Prop :=
  ∀ (i : Instr) (s : State) (d e : Fin 8) (pops : Nat) (op : ℚ → ℚ → ℚ),
    registerArithmetic i = some (d, e, pops, op) → s.Ready true → pcBits s.cw ≠ none →
    s.stEmpty d = false → s.stEmpty e = false →
      ((s.st d).isUnsupported = false → (s.st e).isUnsupported = false →
        (s.st d).isNan = true ∨ (s.st e).isNan = true →
          let invalid : Bool := (s.st d).isSnan || (s.st e).isSnan
          ∃ t, exec i s = .next t ∧ s.Raised t (if invalid then [.ie] else []) ∧ s.KeepsMemory t []
            ∧ s.CompletedNumeric t i
            ∧ (invalid = false ∨ masked s.cw .ie = true →
                selectedNan (s.st d) (s.st e) (t.reg (s.phys d))
                  ∧ s.KeepsRegs t [s.phys d] ∧ s.Popped t (some (s.phys d)) pops)
            ∧ (invalid = true → masked s.cw .ie = false → s.KeepsRegs t [] ∧ s.Popped t none 0))
        ∧ ((s.st d).isUnsupported = true ∨ (s.st e).isUnsupported = true
              ∨ invalidOperands i (s.st d) (s.st e) = true →
            ∃ t, exec i s = .next t ∧ s.Raised t [.ie] ∧ s.KeepsMemory t [] ∧ s.CompletedNumeric t i
              ∧ (masked s.cw .ie = true →
                  t.reg (s.phys d) = indefinite ∧ s.KeepsRegs t [s.phys d] ∧ s.Popped t (some (s.phys d)) pops)
              ∧ (masked s.cw .ie = false → s.KeepsRegs t [] ∧ s.Popped t none 0))

/-- The other operand of a comparison. -/
inductive Sys2Proof.Machine.Compared where
  | reg (i : Fin 8)
  | mem (m : MemOp) (f : Source)
  | zero

/-- The comparisons: the other operand, the pops, and whether a quiet NaN is no exception (R281 to R288, R291). -/
def Sys2Proof.Machine.comparison : Instr → Option (Compared × Nat × Bool)
  | .fcomM32 _ m => some (.mem m .single, 0, false)
  | .fcomM64 _ m => some (.mem m .double, 0, false)
  | .fcompM32 _ m => some (.mem m .single, 1, false)
  | .fcompM64 _ m => some (.mem m .double, 1, false)
  | .ficomI16 _ m => some (.mem m .int16, 0, false)
  | .ficomI32 _ m => some (.mem m .int32, 0, false)
  | .ficompI16 _ m => some (.mem m .int16, 1, false)
  | .ficompI32 _ m => some (.mem m .int32, 1, false)
  | .fcomSti _ i => some (.reg i, 0, false)
  | .fcompSti _ i => some (.reg i, 1, false)
  | .fcompp _ => some (.reg 1, 2, false)
  | .fucomSti _ i => some (.reg i, 0, true)
  | .fucompSti _ i => some (.reg i, 1, true)
  | .fucompp _ => some (.reg 1, 2, true)
  | .ftst _ => some (.zero, 0, false)
  | _ => none

/-- The instructions other than stores to memory and FXCH that need a register which is not empty: the registers they
need, and the pops and pushes of the masked response to a stack underflow (R202 to R204, R230 (d), R245 to R250, R280
(d), R301 (b), R309 to R312). -/
def Sys2Proof.Machine.underflowing : Instr → Option (List (Fin 8) × Nat × Nat)
  | .faddM32 _ _ | .fmulM32 _ _ | .fsubM32 _ _ | .fsubrM32 _ _ | .fdivM32 _ _ | .fdivrM32 _ _
  | .faddM64 _ _ | .fmulM64 _ _ | .fsubM64 _ _ | .fsubrM64 _ _ | .fdivM64 _ _ | .fdivrM64 _ _
  | .fiaddI32 _ _ | .fimulI32 _ _ | .fisubI32 _ _ | .fisubrI32 _ _ | .fidivI32 _ _ | .fidivrI32 _ _
  | .fiaddI16 _ _ | .fimulI16 _ _ | .fisubI16 _ _ | .fisubrI16 _ _ | .fidivI16 _ _ | .fidivrI16 _ _
  | .fsqrt _ | .frndint _ | .f2xm1 _ | .fsin _ | .fcos _
  | .fcomM32 _ _ | .fcomM64 _ _ | .ficomI16 _ _ | .ficomI32 _ _ | .ftst _ => some ([0], 0, 0)
  | .fxtract _ | .fptan _ | .fsincos _ => some ([0], 0, 1)
  | .fscale _ | .fprem _ | .fprem1 _ => some ([0, 1], 0, 0)
  | .fpatan _ | .fyl2x _ | .fyl2xp1 _ => some ([0, 1], 1, 0)
  | .fcompM32 _ _ | .fcompM64 _ _ | .ficompI16 _ _ | .ficompI32 _ _ => some ([0], 1, 0)
  | .fcomSti _ i | .fucomSti _ i => some ([0, i], 0, 0)
  | .fcompSti _ i | .fucompSti _ i => some ([0, i], 1, 0)
  | .fcompp _ | .fucompp _ => some ([0, 1], 2, 0)
  | .fldSti _ i => some ([i], 0, 1)
  | .fstSti _ _ => some ([0], 0, 0)
  | .fstpSti _ _ => some ([0], 1, 0)
  | _ => none

/-- The stores to memory but FBSTP: the operand, its bytes, the indefinite of its format, and the pops (R150, R203,
R204, R208, R209). -/
def Sys2Proof.Machine.indefiniteStore : Instr → Option (MemOp × Nat × Nat × Nat)
  | .fstM32 _ m => some (m, 4, 0xFFC00000, 0)
  | .fstpM32 _ m => some (m, 4, 0xFFC00000, 1)
  | .fstM64 _ m => some (m, 8, 0xFFF8000000000000, 0)
  | .fstpM64 _ m => some (m, 8, 0xFFF8000000000000, 1)
  | .fstpM80 _ m => some (m, 10, 0xFFFFC000000000000000, 1)
  | .fistI16 _ m => some (m, 2, 0x8000, 0)
  | .fistI32 _ m => some (m, 4, 0x80000000, 0)
  | .fistpI16 _ m => some (m, 2, 0x8000, 1)
  | .fistpI32 _ m => some (m, 4, 0x80000000, 1)
  | .fistpI64 _ m => some (m, 8, 0x8000000000000000, 1)
  | _ => none

/-- The masked response to a stack underflow: every result register holds the indefinite, and is not empty unless it is
popped; the popped registers are empty, and TOP has moved. -/
def Sys2Proof.Machine.indefiniteResults (s t : State) (i : Instr) (pops pushes : Nat) : Prop :=
  (∀ k ∈ resultRegs s i, t.reg k = indefinite ∧ ((k - s.sw.top).val < pops ∨ t.isEmpty k = false))
    ∧ (∀ k : Fin 8, (k - s.sw.top).val < pops → t.isEmpty k = true)
    ∧ s.KeepsRegs t (resultRegs s i) ∧ s.KeepsTags t (resultRegs s i ++ retaggedRegs s i)
    ∧ t.sw.top = s.sw.top + Fin.ofNat 8 pops - Fin.ofNat 8 pushes

/-- A stack underflow has been signaled by an instruction that then completed, and unmasked nothing has been written. -/
def Sys2Proof.Machine.underflowed (s t : State) (i : Instr) : Prop :=
  s.StackFaulted t false ∧ s.CompletedNumeric t i
    ∧ (masked s.cw .ie = false → s.KeepsRegs t [] ∧ s.KeepsTags t [] ∧ t.sw.top = s.sw.top ∧ s.KeepsMemory t [])

/-- R14, R410: an empty operand is a stack underflow, of the eighteen register forms of the basic operations, of the
other instructions that write or compare registers, of the stores to memory and of FXCH.  Masked, the destinations
receive the indefinite (memory its format's; FBSTP's two high bytes are FFH, the rest being undefined, U9) and the pops
and pushes are done; unmasked, nothing is written, popped or pushed.  A comparison is unordered either way: that C3, C2
and C0 are written also when IE is unmasked is decision D22.  That both destinations of FXTRACT, FPTAN and FSINCOS
receive the indefinite is decision D23 (log entry 26 follows both). -/
def Obligations.EmptyOperandUnderflows : Prop :=
  (∀ (i : Instr) (s : State) (d e : Fin 8) (pops : Nat) (op : ℚ → ℚ → ℚ),
      registerArithmetic i = some (d, e, pops, op) → s.Ready true → pcBits s.cw ≠ none →
      s.stEmpty d = true ∨ s.stEmpty e = true →
        ∃ t, exec i s = .next t ∧ s.StackFaulted t false ∧ s.KeepsMemory t [] ∧ s.CompletedNumeric t i
          ∧ (masked s.cw .ie = true →
              t.reg (s.phys d) = indefinite ∧ s.KeepsRegs t [s.phys d] ∧ s.Popped t (some (s.phys d)) pops)
          ∧ (masked s.cw .ie = false → s.KeepsRegs t [] ∧ s.Popped t none 0))
    ∧ (∀ (i : Instr) (s : State) (needed : List (Fin 8)) (pops pushes : Nat),
        underflowing i = some (needed, pops, pushes) → s.Ready true → s.OperandReachable i →
        ((memoryArithmetic i).isSome = true ∨ (∃ p, i = .fsqrt p) → pcBits s.cw ≠ none) →
        (∃ j ∈ needed, s.stEmpty j = true) →
          ∃ t, exec i s = .next t ∧ underflowed s t i ∧ s.KeepsMemory t []
            ∧ ((comparison i).isSome = true → t.sw.c3 = true ∧ t.sw.c2 = true ∧ t.sw.c0 = true)
            ∧ (masked s.cw .ie = true → indefiniteResults s t i pops pushes))
    ∧ (∀ (i : Instr) (s : State) (m : MemOp) (n w pops : Nat), indefiniteStore i = some (m, n, w, pops) →
        s.Sound → s.Ready true → s.Reachable i.prefixes m true n → s.stEmpty 0 = true →
          ∃ t, exec i s = .next t ∧ underflowed s t i ∧ (masked s.cw .ie = true → storedAs s t i m n w pops))
    ∧ (∀ (p : List Prefix) (m : MemOp) (s : State), s.Sound → s.Ready true → s.Reachable p m true 10 →
        s.stEmpty 0 = true →
          ∃ t, exec (.fbstp p m) s = .next t ∧ underflowed s t (.fbstp p m)
            ∧ (masked s.cw .ie = true → ∃ w, w / 2 ^ 64 = 0xFFFF ∧ storedAs s t (.fbstp p m) m 10 w 1))
    ∧ (∀ (p : List Prefix) (j : Fin 8) (s : State), s.Ready true → s.stEmpty 0 = true ∨ s.stEmpty j = true →
        ∃ t, exec (.fxch p j) s = .next t ∧ underflowed s t (.fxch p j) ∧ s.KeepsMemory t []
          ∧ (masked s.cw .ie = true →
              t.st 0 = (if s.stEmpty j then indefinite else s.st j)
                ∧ t.st j = (if s.stEmpty 0 then indefinite else s.st 0) ∧ t.stEmpty 0 = false ∧ t.stEmpty j = false
                ∧ s.KeepsRegs t [s.phys 0, s.phys j] ∧ s.KeepsTags t [s.phys 0, s.phys j] ∧ t.sw.top = s.sw.top))

/-- R130: `round`, for a nonzero number that is known exactly, or to more than `p` bits and a remainder. -/
def Obligations.RoundingIsTableTwoFive : Prop :=
  ∀ (neg : Bool) (rc : Rounding) (m : Mag) (p : Nat) (x : ℝ), 2 ≤ p → m.n ≠ 0 → m.Denotes x →
    (m.more = true → p ≤ m.n.log2) →
      let e : ℝ := (signOf neg : ℚ) * x
      let r := roundTo neg rc m p
      RoundsTo rc p e (r.val neg : ℝ)
        ∧ (r.inexact = true ↔ (r.val neg : ℝ) ≠ e) ∧ (r.up = true ↔ |e| < |(r.val neg : ℝ)|)

/-- R134, R136, R137, R138: the four responses to a result out of the range of a register.  Overflow unmasked: the exact
result divided by `2^24576` and rounded, OE; overflow masked: an infinity or the largest number of `p` bits, by the
rounding mode, OE and PE.  Underflow unmasked: the exact result times `2^24576` and rounded, UE; underflow masked: the
exact result rounded once among the multiples of the unit of R137 (D21), UE and PE exactly when that is inexact.  The
bound on a tiny result is one that both settings of the parameter TININESS call tiny (D20). -/
def Obligations.UnmaskedOverflowIsScaled : Prop :=
  ∀ (cw : Word16) (before neg : Bool) (m : Mag) (p : Nat) (rc : Rounding) (x : ℝ),
    2 ≤ p → p ≤ 64 → m.n ≠ 0 → m.Denotes x → (m.more = true → p ≤ m.n.log2) →
    let d := deliver cw before neg m p rc
    (2 ^ (16384 : ℤ) ≤ x → x < 2 ^ (32766 : ℤ) → masked cw .oe = false →
        let e : ℝ := (signOf neg : ℚ) * x * 2 ^ (-24576 : ℤ)
        RoundsTo rc p e (d.val.val : ℝ) ∧ classify d.val = .normal
          ∧ d.flags = (if d.inexact then [.oe, .pe] else [.oe])
          ∧ (d.inexact = true ↔ (d.val.val : ℝ) ≠ e) ∧ (d.c1 = true ↔ |e| < |(d.val.val : ℝ)|))
      ∧ (2 ^ (16384 : ℤ) ≤ x → masked cw .oe = true →
          let inf : Bool :=
            match rc with
            | .nearest => true
            | .down => neg
            | .up => !neg
            | .chop => false
          d.val = (if inf then infExt neg else ⟨neg, 0x7FFE, BitVec.ofNat 64 (2 ^ 64 - 2 ^ (64 - p))⟩)
            ∧ d.flags = [.oe, .pe] ∧ d.c1 = inf ∧ d.inexact = true)
      ∧ (2 ^ (-40958 : ℤ) ≤ x → x ≤ (1 - 2 ^ (-p : ℤ)) * 2 ^ (-16382 : ℤ) → masked cw .ue = false →
          let e : ℝ := (signOf neg : ℚ) * x * 2 ^ (24576 : ℤ)
          RoundsTo rc p e (d.val.val : ℝ) ∧ classify d.val = .normal
            ∧ d.flags = (if d.inexact then [.ue, .pe] else [.ue])
            ∧ (d.inexact = true ↔ (d.val.val : ℝ) ≠ e) ∧ (d.c1 = true ↔ |e| < |(d.val.val : ℝ)|))
      ∧ (x ≤ (1 - 2 ^ (-p : ℤ)) * 2 ^ (-16382 : ℤ) → masked cw .ue = true →
          let e : ℝ := (signOf neg : ℚ) * x
          let u : ℤ := max (Int.log 2 x - p + 1) (-16445)
          RoundsAmong (fun z => ∃ n : ℤ, z = n * 2 ^ u) (fun z => ∃ n : ℤ, Even n ∧ z = n * 2 ^ u) rc e (d.val.val : ℝ)
            ∧ d.val.sign = neg ∧ d.flags = (if d.inexact then [.ue, .pe] else [])
            ∧ (d.inexact = true ↔ (d.val.val : ℝ) ≠ e) ∧ (d.c1 = true ↔ |e| < |(d.val.val : ℝ)|))

/-- R245: FSQRT of a normal number that is not negative delivers the exact root rounded once.  Of a negative number that
is not zero, a denormal too, or of minus infinity, it raises IE: masked, ST is the indefinite, unmasked it stays.  That
C1 is 0 after the masked response is the model's choice (log entry 18): R245 gives C1 no value there. -/
def Obligations.FsqrtRoundsTheExactRoot : Prop :=
  ∀ (q : List Prefix) (s : State) (p : Nat), s.Ready true → pcBits s.cw = some p → s.stEmpty 0 = false →
    (classify (s.st 0) = .normal → (s.st 0).sign = false →
        ∃ t, exec (.fsqrt q) s = .next t ∧ rounded s t (s.phys 0) p (Real.sqrt ((s.st 0).val : ℝ))
          ∧ s.KeepsRegs t [s.phys 0] ∧ s.Popped t (some (s.phys 0)) 0 ∧ s.KeepsMemory t []
          ∧ s.CompletedNumeric t (.fsqrt q))
      ∧ ((s.st 0).isFiniteNonzero = true ∨ (s.st 0).isInf = true → (s.st 0).sign = true →
          ∃ t, exec (.fsqrt q) s = .next t ∧ s.Raised t [.ie] ∧ s.Popped t none 0 ∧ s.KeepsMemory t []
            ∧ s.CompletedNumeric t (.fsqrt q)
            ∧ (masked s.cw .ie = true → t.st 0 = indefinite ∧ s.KeepsRegs t [s.phys 0] ∧ t.sw.c1 = false)
            ∧ (masked s.cw .ie = false → s.KeepsRegs t []))

/-- R248: FRNDINT of a zero or a normal number delivers the integer it rounds to under RC, with the operand's sign. -/
def Obligations.FrndintRoundsToAnInteger : Prop :=
  ∀ (q : List Prefix) (s : State), s.Ready true → s.stEmpty 0 = false → (s.st 0).ordinary = true →
    ∃ t, ∃ z : ℤ, exec (.frndint q) s = .next t ∧ (t.reg (s.phys 0)).val = z
      ∧ RoundsToInt s.rc ((s.st 0).val : ℝ) z ∧ (t.reg (s.phys 0)).sign = (s.st 0).sign
      ∧ (t.reg (s.phys 0)).ordinary = true
      ∧ s.Raised t (if (z : ℚ) = (s.st 0).val then [] else [.pe])
      ∧ (t.sw.c1 = true ↔ |(s.st 0).val| < |(z : ℚ)|)
      ∧ s.KeepsRegs t [s.phys 0] ∧ s.Popped t (some (s.phys 0)) 0 ∧ s.KeepsMemory t []
      ∧ s.CompletedNumeric t (.frndint q)

/-- R246: FSCALE multiplies ST by the power of two that ST(1), chopped toward zero, gives, exactly when the result is in
range. -/
def Obligations.FscaleMultipliesByAPowerOfTwo : Prop :=
  ∀ (q : List Prefix) (s : State) (k : ℤ), s.Ready true → s.stEmpty 0 = false → s.stEmpty 1 = false →
    classify (s.st 0) = .normal → (s.st 1).ordinary = true → RoundsToInt .chop ((s.st 1).val : ℝ) k →
    inRange ((s.st 0).val * 2 ^ k) →
      ∃ t, exec (.fscale q) s = .next t ∧ (t.reg (s.phys 0)).val = (s.st 0).val * 2 ^ k
        ∧ classify (t.reg (s.phys 0)) = .normal ∧ t.sw.c1 = false ∧ s.Raised t []
        ∧ s.KeepsRegs t [s.phys 0] ∧ s.Popped t (some (s.phys 0)) 0 ∧ s.KeepsMemory t []
        ∧ s.CompletedNumeric t (.fscale q)

/-- R250: FXTRACT of a normal number replaces ST by its true exponent and pushes its significand. -/
def Obligations.FxtractSplitsANumber : Prop :=
  ∀ (q : List Prefix) (s : State), s.Ready true → s.stEmpty 0 = false → s.full7 = false →
    classify (s.st 0) = .normal →
      ∃ t, exec (.fxtract q) s = .next t ∧ t.sw.top = s.sw.top - 1
        ∧ (∃ e : ℤ, (t.st 1).val = e ∧ (s.st 0).val = (t.st 0).val * 2 ^ e)
        ∧ 1 ≤ |(t.st 0).val| ∧ |(t.st 0).val| < 2 ∧ (t.st 1).ordinary = true ∧ (t.st 0).ordinary = true
        ∧ t.stEmpty 0 = false ∧ t.stEmpty 1 = false ∧ t.sw.c1 = false ∧ s.Raised t []
        ∧ s.KeepsRegs t [s.phys 0, s.phys 7] ∧ s.KeepsTags t [s.phys 7] ∧ s.KeepsMemory t []
        ∧ s.CompletedNumeric t (.fxtract q)

/-- R251, R252: FABS (D9 E1) clears the sign bit of ST and FCHS (D9 E0) complements it, for every pattern, and raise
nothing; with ST empty they are a stack underflow, and the tests before an ESC instruction come first. -/
def Obligations.SignInstructionsChangeTheSignBit : Prop :=
  ∀ (q : List Prefix) (s : State) (i : Instr) (sign : Bool),
    (i = .fabs q ∧ sign = false) ∨ (i = .fchs q ∧ sign = !(s.st 0).sign) →
      (Instr.fabs []).encode = [0xD9, 0xE1] ∧ (Instr.fchs []).encode = [0xD9, 0xE0] ∧ escGates i s
        ∧ (s.Ready true → s.stEmpty 0 = false →
            ∃ t, exec i s = .next t ∧ t.reg (s.phys 0) = { s.st 0 with sign := sign } ∧ t.sw.c1 = false
              ∧ s.Raised t [] ∧ s.KeepsRegs t [s.phys 0] ∧ s.Popped t (some (s.phys 0)) 0 ∧ s.KeepsMemory t []
              ∧ s.CompletedNumeric t i)
        ∧ (s.Ready true → s.stEmpty 0 = true →
            ∃ t, exec i s = .next t ∧ s.StackFaulted t false ∧ s.KeepsMemory t [] ∧ s.CompletedNumeric t i
              ∧ (masked s.cw .ie = true →
                  t.reg (s.phys 0) = indefinite ∧ s.KeepsRegs t [s.phys 0] ∧ s.Popped t (some (s.phys 0)) 0)
              ∧ (masked s.cw .ie = false → s.KeepsRegs t [] ∧ s.Popped t none 0))

/-- R262, R263: FPREM and FPREM1 of normal operands.  When their exponents differ by less than 64 they leave the exact
remainder `x - y k`, the quotient `k` chopped (FPREM) or rounded to nearest (FPREM1), C2 clear and the low bits of the
quotient's magnitude in C0, C3 and C1.  When the exponent of ST is larger by `D` of 64 or more, both leave the exact
partial remainder `x - y k 2^(D - N)` with `N = 32 + D mod 32` (decision D24) and `k` the chopped quotient of `x` by
`y 2^(D - N)`, and set C2 alone. -/
def Obligations.RemainderIsExact : Prop :=
  ∀ (q : List Prefix) (s : State) (i : Instr), i = .fprem q ∨ i = .fprem1 q → s.Ready true →
    s.stEmpty 0 = false → s.stEmpty 1 = false → classify (s.st 0) = .normal → classify (s.st 1) = .normal →
    (∀ (rc : Rounding) (k : ℤ), (i = .fprem q ∧ rc = .chop) ∨ (i = .fprem1 q ∧ rc = .nearest) →
        (s.st 0).exp.toNat < (s.st 1).exp.toNat + 64 →
        RoundsToInt rc (((s.st 0).val / (s.st 1).val : ℚ) : ℝ) k →
        (s.st 0).val - (s.st 1).val * k = 0 ∨ inRange ((s.st 0).val - (s.st 1).val * k) →
          ∃ t, exec i s = .next t ∧ (t.reg (s.phys 0)).val = (s.st 0).val - (s.st 1).val * k
            ∧ (t.reg (s.phys 0)).ordinary = true
            ∧ t.sw.c2 = false ∧ t.sw.c0 = k.natAbs.testBit 2 ∧ t.sw.c3 = k.natAbs.testBit 1
            ∧ t.sw.c1 = k.natAbs.testBit 0 ∧ s.Raised t []
            ∧ s.KeepsRegs t [s.phys 0] ∧ s.Popped t (some (s.phys 0)) 0 ∧ s.KeepsMemory t []
            ∧ s.CompletedNumeric t i)
      ∧ (∀ k : ℤ, (s.st 1).exp.toNat + 64 ≤ (s.st 0).exp.toNat →
          let dist := (s.st 0).exp.toNat - (s.st 1).exp.toNat
          let unit : ℚ := 2 ^ (dist - (32 + dist % 32))
          let r := (s.st 0).val - (s.st 1).val * k * unit
          RoundsToInt .chop (((s.st 0).val / (s.st 1).val / unit : ℚ) : ℝ) k → r = 0 ∨ inRange r →
            ∃ t, exec i s = .next t ∧ (t.reg (s.phys 0)).val = r ∧ (t.reg (s.phys 0)).ordinary = true
              ∧ (t.reg (s.phys 0)).sign = (s.st 0).sign
              ∧ t.sw.c2 = true ∧ t.sw.c0 = false ∧ t.sw.c3 = false ∧ t.sw.c1 = false ∧ s.Raised t []
              ∧ s.KeepsRegs t [s.phys 0] ∧ s.Popped t (some (s.phys 0)) 0 ∧ s.KeepsMemory t []
              ∧ s.CompletedNumeric t i)

/-! ## Comparisons -/

/-- The other operand can be read, is a zero, a normal number or an infinity, in a register or in memory, and stands
there on the affine line. -/
def Sys2Proof.Machine.comparedAt (s : State) (i : Instr) (c : Compared) (y : WithBot (WithTop ℚ)) : Prop :=
  match c with
  | .reg j => s.stEmpty j = false ∧ ((s.st j).ordinary = true ∨ (s.st j).isInf = true) ∧ y = (s.st j).affine
  | .mem m f =>
    s.Reachable i.prefixes m false f.size
      ∧ (f.ordinary (leNat (s.readPlace (s.place i.prefixes m) f.size)) = true
        ∨ f.isInf (leNat (s.readPlace (s.place i.prefixes m) f.size)) = true)
      ∧ y = f.affine (leNat (s.readPlace (s.place i.prefixes m) f.size))
  | .zero => y = (((0 : ℚ) : WithTop ℚ) : WithBot (WithTop ℚ))

/-- R280 (a), (b): a comparison of ordered operands sets C3, C2 and C0 by Table 4-6 on the affine line with +0 = -0,
clears C1, raises nothing, writes no register, and pops where it pops. -/
def Obligations.ComparisonsOrderTheirOperands : Prop :=
  ∀ (i : Instr) (s : State) (c : Compared) (pops : Nat) (quietOk : Bool) (y : WithBot (WithTop ℚ)),
    comparison i = some (c, pops, quietOk) → s.Ready true → s.stEmpty 0 = false →
    (s.st 0).ordinary = true ∨ (s.st 0).isInf = true → comparedAt s i c y →
      ∃ t, exec i s = .next t
        ∧ (t.sw.c3 = true ↔ (s.st 0).affine = y) ∧ (t.sw.c0 = true ↔ (s.st 0).affine < y) ∧ t.sw.c2 = false
        ∧ t.sw.c1 = false ∧ s.Raised t [] ∧ s.KeepsRegs t [] ∧ s.Popped t none pops ∧ s.KeepsMemory t []
        ∧ s.CompletedNumeric t i

/-- The other operand can be read; `nan` tells whether it is a NaN or unsupported, `bad` whether it is a signaling NaN or
unsupported. -/
def Sys2Proof.Machine.comparedNan (s : State) (i : Instr) (c : Compared) (nan bad : Bool) : Prop :=
  match c with
  | .reg j =>
    s.stEmpty j = false ∧ nan = ((s.st j).isNan || (s.st j).isUnsupported)
      ∧ bad = ((s.st j).isSnan || (s.st j).isUnsupported)
  | .mem m f =>
    s.Reachable i.prefixes m false f.size
      ∧ nan = f.isNan (leNat (s.readPlace (s.place i.prefixes m) f.size))
      ∧ bad = f.isSnan (leNat (s.readPlace (s.place i.prefixes m) f.size))
  | .zero => nan = false ∧ bad = false

/-- R280 (b), (c): a comparison with a NaN or an unsupported pattern in ST or in the other operand is unordered.  It is
invalid, but in the FUCOM family not for quiet NaNs alone; with IE unmasked nothing is popped.  That C3, C2 and C0 are
written also when IE is unmasked is decision D22 (log entry 26). -/
def Obligations.ComparisonsWithANanAreUnordered : Prop :=
  ∀ (i : Instr) (s : State) (c : Compared) (pops : Nat) (quietOk nan bad : Bool),
    comparison i = some (c, pops, quietOk) → s.Ready true → s.stEmpty 0 = false → comparedNan s i c nan bad →
    (s.st 0).isNan = true ∨ (s.st 0).isUnsupported = true ∨ nan = true →
      let invalid : Bool := !quietOk || (s.st 0).isSnan || (s.st 0).isUnsupported || bad
      ∃ t, exec i s = .next t ∧ t.sw.c3 = true ∧ t.sw.c2 = true ∧ t.sw.c0 = true ∧ t.sw.c1 = false
        ∧ s.Raised t (if invalid then [.ie] else []) ∧ s.KeepsRegs t []
        ∧ s.Popped t none (if invalid && !masked s.cw .ie then 0 else pops) ∧ s.KeepsMemory t []
        ∧ s.CompletedNumeric t i

/-- R289: FXAM, encoded D9 E5, reports the class of ST, or Empty, in C3, C2 and C0, and its sign in C1, in every
state that passes the tests before it; that a pseudodenormal is a Denormal is an inference of the spec. -/
def Obligations.FxamReportsTheClass : Prop :=
  ∀ (q : List Prefix) (s : State), (Instr.fxam []).encode = [0xD9, 0xE5] ∧ escGates (.fxam q) s ∧ (s.Ready true →
    ∃ t, exec (.fxam q) s = .next t ∧ t.sw.c1 = (s.st 0).sign
      ∧ (t.sw.c3, t.sw.c2, t.sw.c0) =
          (if s.stEmpty 0 then (true, false, true)
            else
              match classify (s.st 0) with
              | .unsupported => (false, false, false)
              | .qnan => (false, false, true)
              | .snan => (false, false, true)
              | .normal => (false, true, false)
              | .infinity => (false, true, true)
              | .zero => (true, false, false)
              | .denormal => (true, true, false)
              | .pseudodenormal => (true, true, false))
      ∧ s.Raised t [] ∧ s.KeepsRegs t [] ∧ s.Popped t none 0 ∧ s.KeepsMemory t [] ∧ s.CompletedNumeric t (.fxam q))

/-! ## Transcendental instructions -/

/-- A magnitude as a rational, when it is exact. -/
def Sys2Proof.Machine.magVal (m : Mag) : ℚ := m.n * 2 ^ m.k

/-- Strictly within a relative error of `2^-62` of some number of the bracket: above the lower end less its share, and
below the upper end and its share. -/
def Sys2Proof.Machine.inBound (b : Bracket) (v : ℚ) : Prop :=
  magVal b.lower * (1 - 2 ^ (-62 : ℤ)) < v * magVal b.den ∧ v * magVal b.den < magVal b.upper * (1 + 2 ^ (-62 : ℤ))

/-- R300 (b): the value that the model hands to delivery has the sign of its bracket of the function, at most 64
significant bits, and lies strictly within a relative error of `2^-62` of that bracket.  It is the part's own value, a
constant without a body, wherever that lies within the bound: whatever value of 64 bits within the bound is offered is the
one chosen.  That the bracket is that of the function, and that a value outside the bound is replaced, is log entry 21,
the model's choice. -/
def Obligations.TranscendentalValueIsWithinTheBound : Prop :=
  ∀ (op : Config.TransOp) (y x : Ext) (rc : Rounding) (offer : BitVec 64 × ℤ),
    let b := transReference op y x (Config.transStoredPeriod op x rc)
    b.lower.n ≠ 0 → b.den.n ≠ 0 → b.lo ≤ b.hi →
      transValue op y x rc = (b.neg, b.choose (Config.transPick op y x rc))
        ∧ (b.choose offer).n < 2 ^ 64 ∧ (b.choose offer).more = false ∧ inBound b (magVal (b.choose offer))
        ∧ (inBound b (offer.1.toNat * 2 ^ offer.2) → b.choose offer = { n := offer.1.toNat, k := offer.2 })

/-- The delivery of a transcendental result in the register `k` (R300 (c)): the value that the model takes for the
operation on these operands under RC, delivered as R134 says; PE always, and C1 the round-up bit of the operation unless
the delivery itself rounded.  Which value within the bound of R300 (b) it is, is free (log entry 21). -/
def Sys2Proof.Machine.deliveredTrans (s t : State) (k : Fin 8) (op : Config.TransOp) (y x : Ext) : Prop :=
  let v := transValue op y x s.rc
  let d := deliver s.cw s.params.tinyBefore v.1 v.2 64 s.rc
  t.reg k = d.val ∧ s.Raised t (d.flags ++ [.pe])
    ∧ t.sw.c1 = (if d.inexact then d.c1 else Config.transUp op y x s.rc)

/-- R300 (c), R301 to R303, R310: FSIN and FCOS of a normal number below `2^63`, and F2XM1 of one up to 1, replace ST by
the delivery of their own function of it under RC and leave everything else; C2 of the first two is 0. -/
def Obligations.OneOperandFunctionsReplaceSt : Prop :=
  ∀ (q : List Prefix) (s : State) (i : Instr) (op : Config.TransOp),
    (i = .fsin q ∧ op = .fsin ∧ |(s.st 0).val| < 2 ^ (63 : ℤ))
      ∨ (i = .fcos q ∧ op = .fcos ∧ |(s.st 0).val| < 2 ^ (63 : ℤ))
      ∨ (i = .f2xm1 q ∧ op = .f2xm1 ∧ |(s.st 0).val| ≤ 1) →
    s.Ready true → s.stEmpty 0 = false → classify (s.st 0) = .normal →
      ∃ t, exec i s = .next t ∧ deliveredTrans s t (s.phys 0) op (s.st 0) (s.st 0) ∧ t.sw.top = s.sw.top
        ∧ (op ≠ .f2xm1 → t.sw.c2 = false) ∧ s.KeepsRegs t [s.phys 0] ∧ s.KeepsTags t [] ∧ s.KeepsMemory t []
        ∧ s.CompletedNumeric t i

/-- R300 (c), R301, R304, R305: FPTAN and FSINCOS of a normal number below `2^63` push a second result; C2 is 0.  FPTAN
leaves the delivery of the tangent in ST(1) and 1 in ST; FSINCOS leaves the delivery of the sine in ST(1) and the value
that the model takes for the cosine in ST. -/
def Obligations.TwoResultFunctionsPush : Prop :=
  ∀ (q : List Prefix) (s : State) (i : Instr) (op : Config.TransOp) (top : Ext),
    (i = .fptan q ∧ op = .fptan ∧ top = oneExt false)
      ∨ (i = .fsincos q ∧ op = .fsincosSin
          ∧ ∃ v, v = transValue .fsincosCos (s.st 0) (s.st 0) s.rc ∧ top = exactExt v.1 v.2.n v.2.k) →
    s.Ready true → s.stEmpty 0 = false → s.full7 = false → classify (s.st 0) = .normal →
    |(s.st 0).val| < 2 ^ (63 : ℤ) →
      ∃ t, exec i s = .next t ∧ deliveredTrans s t (s.phys 0) op (s.st 0) (s.st 0) ∧ t.st 0 = top
        ∧ t.sw.c2 = false ∧ t.sw.top = s.sw.top - 1 ∧ t.stEmpty 0 = false
        ∧ s.KeepsRegs t [s.phys 0, s.phys 7] ∧ s.KeepsTags t [s.phys 7] ∧ s.KeepsMemory t []
        ∧ s.CompletedNumeric t i

/-- R301 (a), (b): an operand of magnitude `2^63` or more sets C2 and leaves ST, TOP and the tags alone. -/
def Obligations.TrigonometricOperandTooLarge : Prop :=
  ∀ (q : List Prefix) (s : State) (i : Instr), i = .fsin q ∨ i = .fcos q ∨ i = .fptan q ∨ i = .fsincos q →
    s.Ready true → s.stEmpty 0 = false → s.full7 = false → classify (s.st 0) = .normal →
    2 ^ (63 : ℤ) ≤ |(s.st 0).val| →
      ∃ t, exec i s = .next t ∧ t.sw.c2 = true ∧ s.Raised t [] ∧ s.KeepsRegs t [] ∧ s.Popped t none 0
        ∧ s.KeepsMemory t [] ∧ s.CompletedNumeric t i

/-- R300 (c), R309, R311, R312: FPATAN, FYL2X and FYL2XP1 of normal operands in range replace ST(1) by the delivery of
their own function of ST(1) and ST under RC, and pop. -/
def Obligations.TwoOperandFunctionsPop : Prop :=
  ∀ (q : List Prefix) (s : State) (i : Instr) (op : Config.TransOp),
    (i = .fpatan q ∧ op = .fpatan)
      ∨ (i = .fyl2x q ∧ op = .fyl2x ∧ 0 < (s.st 0).val ∧ (s.st 0).val ≠ 1)
      ∨ (i = .fyl2xp1 q ∧ op = .fyl2xp1 ∧ 2 * (1 - |(s.st 0).val|) ^ 2 > 1 ∧ |(s.st 0).val| < 1) →
    s.Ready true → s.stEmpty 0 = false → s.stEmpty 1 = false →
    classify (s.st 0) = .normal → classify (s.st 1) = .normal →
      ∃ t, exec i s = .next t ∧ deliveredTrans s t (s.phys 1) op (s.st 1) (s.st 0)
        ∧ s.KeepsRegs t [s.phys 1] ∧ s.Popped t (some (s.phys 1)) 1 ∧ s.KeepsMemory t []
        ∧ s.CompletedNumeric t i

/-! ## Processor control -/

/-- R330: FNINIT, encoded DB E3 and whatever is pending: CW 037FH, SW 0000H, every register empty; registers and pointers
as before, ERROR# inactive.  With EM or TS set it takes interrupt 7 instead. -/
def Obligations.FninitSetsTheInitialState : Prop :=
  ∀ (q : List Prefix) (s : State),
    (Instr.fninit []).encode = [0xDB, 0xE3]
      ∧ (s.cr0.em = true ∨ s.cr0.ts = true → exec (.fninit q) s = .next (s.takeTrap .notAvailable))
      ∧ (s.Ready false →
          ∃ t, exec (.fninit q) s = .next t ∧ t.cw = 0x037F ∧ t.sw.toBits = 0 ∧ t.tagWord = 0xFFFF ∧ t.errorPin = false
            ∧ t.regs = s.regs ∧ s.KeepsPointers t ∧ t.mem = s.mem ∧ t.overrun = false
            ∧ t.gpr = s.gpr ∧ t.seg = s.seg ∧ t.links = s.links ∧ s.Advanced t (.fninit q))

/-- R332: FLDCW loads all sixteen bits of CW (the reserved ones too, decision D3) and derives ES and B anew; flags, SF,
TOP and pointers stay; the tests before an ESC instruction come first. -/
def Obligations.FldcwLoadsTheControlWord : Prop :=
  ∀ (q : List Prefix) (m : MemOp) (s : State), escGates (.fldcw q m) s ∧ (s.Ready true → s.Reachable q m false 2 →
    ∃ t, exec (.fldcw q m) s = .next t ∧ t.cw = BitVec.ofNat 16 (leNat (s.readPlace (s.place q m) 2))
      ∧ (∀ x, t.sw.flag x = s.sw.flag x) ∧ t.sw.sf = s.sw.sf ∧ t.sw.top = s.sw.top
      ∧ (t.sw.es = true ↔ ∃ x, s.sw.flag x = true ∧ masked t.cw x = false) ∧ t.sw.busy = t.sw.es
      ∧ t.regs = s.regs ∧ t.empty = s.empty ∧ s.KeepsPointers t ∧ t.mem = s.mem ∧ s.Completed t (.fldcw q m))

/-- The two words FNSTCW and FNSTSW store, from before the instruction (R333, R334). -/
def Sys2Proof.Machine.controlStore (s : State) (q : List Prefix) (m : MemOp) (i : Instr) (w : Word16) : Prop :=
  (i = .fnstcw q m ∧ w = s.cw) ∨ (i = .fnstswM16 q m ∧ w = s.sw.toBits)

/-- R333, R334, R335: FNSTCW, FNSTSW and FNSTSW AX, whatever is pending, store the word as it was before; nothing but
the condition code changes in the numeric processor, and AX alone in the processor.  SAHF after FNSTSW AX brings C0 to
CF, C2 to PF and C3 to ZF (R21). -/
def Obligations.ControlAndStatusWordsAreStored : Prop :=
  ∀ (q : List Prefix) (s : State), s.Sound → s.Ready false →
    (∀ m i w, controlStore s q m i w → s.Reachable q m true 2 →
        ∃ t, exec i s = .next t ∧ leNat (readBytes t.mem (s.placeAddrs (s.place q m) 2)) = w.toNat
          ∧ s.KeepsMemory t (s.placeAddrs (s.place q m) 2) ∧ s.Raised t [] ∧ t.sw.top = s.sw.top
          ∧ t.regs = s.regs ∧ t.empty = s.empty ∧ t.cw = s.cw ∧ s.KeepsPointers t ∧ s.Completed t i)
      ∧ ∃ t, exec (.fnstswAx q) s = .next t ∧ t.gpr.get16 .eax = s.sw.toBits
          ∧ t.gpr.eax.extractLsb' 16 16 = s.gpr.eax.extractLsb' 16 16
          ∧ { t.gpr with eax := 0 } = { s.gpr with eax := 0 } ∧ s.Raised t [] ∧ t.sw.top = s.sw.top
          ∧ t.regs = s.regs ∧ t.empty = s.empty ∧ t.cw = s.cw ∧ s.KeepsPointers t ∧ t.mem = s.mem
          ∧ t.seg = s.seg ∧ t.flags = s.flags ∧ t.links = s.links ∧ s.Advanced t (.fnstswAx q)
          ∧ t.sahf.flags.cf = s.sw.c0 ∧ t.sahf.flags.pf = s.sw.c2 ∧ t.sahf.flags.zf = s.sw.c3

/-- R336: FNCLEX, whatever is pending, clears the six flags, SF, ES and B; TOP stays. -/
def Obligations.FnclexClearsTheExceptions : Prop :=
  ∀ (q : List Prefix) (s : State), s.Ready false →
    ∃ t, exec (.fnclex q) s = .next t ∧ (∀ x, t.sw.flag x = false) ∧ t.sw.sf = false ∧ t.errorPin = false
      ∧ t.sw.busy = false ∧ t.sw.top = s.sw.top ∧ t.cw = s.cw ∧ t.regs = s.regs ∧ t.empty = s.empty
      ∧ s.KeepsPointers t ∧ t.mem = s.mem ∧ s.Completed t (.fnclex q)

/-- A little-endian field of `n` bytes at an offset of the operand, read in `t`. -/
def Sys2Proof.Machine.imageField (s t : State) (q : List Prefix) (m : MemOp) (off n : Nat) : Nat :=
  leNat (readBytes t.mem ((s.placeAddrs (s.place q m) (off + n)).drop off))

/-- The linear address of a pointer, as the real-address images hold it (R71, R73). -/
def Sys2Proof.Machine.linearOf (p : FarPtr) : Nat := (p.sel.toNat * 16 + p.off.toNat) % 2 ^ 32

/-- R70 to R74, R340, R342: FNSTENV and FNSAVE, whatever is pending, store CW, SW and the tag word as they were, and the
pointers in the form of each of the four images; FNSAVE stores the eight registers in stack order after them (R75).
FNSTENV then masks all exceptions and FNSAVE initialises. -/
def Obligations.ImagesAreStored : Prop :=
  ∀ (q : List Prefix) (m : MemOp) (s : State) (i : Instr) (n : Nat),
    let f := s.imageFormat q
    s.Sound → s.Ready false → (i = .fnstenv q m ∧ n = f.envSize) ∨ (i = .fnsave q m ∧ n = f.stateSize) →
    s.Reachable q m true n →
      ∃ t, exec i s = .next t ∧ s.KeepsMemory t (s.placeAddrs (s.place q m) n)
        ∧ imageField s t q m 0 2 = s.cw.toNat ∧ imageField s t q m f.slot 2 = s.sw.toBits.toNat
        ∧ imageField s t q m (2 * f.slot) 2 = s.tagWord
        ∧ (f = .prot32 →
            imageField s t q m 12 4 = s.fip.off.toNat ∧ imageField s t q m 16 2 = s.fip.sel.toNat
              ∧ imageField s t q m 20 4 = s.fdp.off.toNat ∧ imageField s t q m 24 2 = s.fdp.sel.toNat)
        ∧ (f = .real32 →
            imageField s t q m 12 2 = linearOf s.fip % 2 ^ 16
              ∧ imageField s t q m 16 4 = linearOf s.fip / 2 ^ 16 * 2 ^ 12 + s.fop.toNat
              ∧ imageField s t q m 20 2 = linearOf s.fdp % 2 ^ 16
              ∧ imageField s t q m 24 4 = linearOf s.fdp / 2 ^ 16 * 2 ^ 12)
        ∧ (f = .prot16 →
            imageField s t q m 6 2 = s.fip.off.toNat % 2 ^ 16 ∧ imageField s t q m 8 2 = s.fip.sel.toNat
              ∧ imageField s t q m 10 2 = s.fdp.off.toNat % 2 ^ 16 ∧ imageField s t q m 12 2 = s.fdp.sel.toNat)
        ∧ (f = .real16 →
            imageField s t q m 6 2 = linearOf s.fip % 2 ^ 16
              ∧ imageField s t q m 8 2 = linearOf s.fip / 2 ^ 16 % 2 ^ 4 * 2 ^ 12 + s.fop.toNat
              ∧ imageField s t q m 10 2 = linearOf s.fdp % 2 ^ 16
              ∧ imageField s t q m 12 2 = linearOf s.fdp / 2 ^ 16 % 2 ^ 4 * 2 ^ 12)
        ∧ t.regs = s.regs ∧ s.KeepsPointers t ∧ s.Completed t i ∧ t.errorPin = false
        ∧ (i = .fnstenv q m → t.cw = s.cw ||| 0x3F ∧ t.empty = s.empty ∧ t.sw.top = s.sw.top
            ∧ (∀ x, t.sw.flag x = s.sw.flag x) ∧ t.sw.sf = s.sw.sf)
        ∧ (i = .fnsave q m → t.cw = 0x037F ∧ t.sw.toBits = 0 ∧ t.tagWord = 0xFFFF
            ∧ ∀ k : Fin 8, imageField s t q m (f.envSize + 10 * k.val) 10 = extToNat (s.st k))

/-- R76, R341, R343: FLDENV and FRSTOR load CW, the status word but for ES and B, and each tag as empty or not, and the
pointers from each of the four images; FRSTOR loads the registers in stack order under the new TOP.  That a
real-address image gives a pointer without a selector is decision D12; that FOP stays as it is where the image, of
protected mode, holds none is log entry 27. -/
def Obligations.ImagesAreLoaded : Prop :=
  ∀ (q : List Prefix) (m : MemOp) (s : State) (i : Instr) (n : Nat),
    let f := s.imageFormat q
    s.Ready true → (i = .fldenv q m ∧ n = f.envSize) ∨ (i = .frstor q m ∧ n = f.stateSize) →
    s.Reachable q m false n →
      ∃ t, exec i s = .next t ∧ t.cw = BitVec.ofNat 16 (imageField s s q m 0 2)
        ∧ (∃ w, StatusWord.toBits w = BitVec.ofNat 16 (imageField s s q m f.slot 2) ∧ t.sw = w.summarise t.cw)
        ∧ (∀ k : Fin 8, t.isEmpty k = (imageField s s q m (2 * f.slot) 2 / 4 ^ k.val % 4 == 3))
        ∧ (f = .prot32 →
            t.fip = ⟨BitVec.ofNat 16 (imageField s s q m 16 2), BitVec.ofNat 32 (imageField s s q m 12 4)⟩
              ∧ t.fdp = ⟨BitVec.ofNat 16 (imageField s s q m 24 2), BitVec.ofNat 32 (imageField s s q m 20 4)⟩
              ∧ t.fop = s.fop)
        ∧ (f = .real32 →
            t.fip = ⟨0, BitVec.ofNat 32
                (imageField s s q m 12 2 + imageField s s q m 16 4 / 2 ^ 12 % 2 ^ 16 * 2 ^ 16)⟩
              ∧ t.fdp = ⟨0, BitVec.ofNat 32
                (imageField s s q m 20 2 + imageField s s q m 24 4 / 2 ^ 12 % 2 ^ 16 * 2 ^ 16)⟩
              ∧ t.fop = BitVec.ofNat 11 (imageField s s q m 16 4))
        ∧ (f = .prot16 →
            t.fip = ⟨BitVec.ofNat 16 (imageField s s q m 8 2), BitVec.ofNat 32 (imageField s s q m 6 2)⟩
              ∧ t.fdp = ⟨BitVec.ofNat 16 (imageField s s q m 12 2), BitVec.ofNat 32 (imageField s s q m 10 2)⟩
              ∧ t.fop = s.fop)
        ∧ (f = .real16 →
            t.fip = ⟨0, BitVec.ofNat 32 (imageField s s q m 6 2 + imageField s s q m 8 2 / 2 ^ 12 * 2 ^ 16)⟩
              ∧ t.fdp = ⟨0, BitVec.ofNat 32 (imageField s s q m 10 2 + imageField s s q m 12 2 / 2 ^ 12 * 2 ^ 16)⟩
              ∧ t.fop = BitVec.ofNat 11 (imageField s s q m 8 2))
        ∧ t.mem = s.mem ∧ s.Completed t i
        ∧ (i = .fldenv q m → t.regs = s.regs)
        ∧ (i = .frstor q m →
            ∀ k : Fin 8, t.st k = extOfNat (imageField s s q m (f.envSize + 10 * k.val) 10))

/-- R340, R341: FRSTOR from the image that FNSAVE has just stored brings back every data register, every tag, the control
word, the status word and FOP, in each of the four formats, and in the 32-bit protected-mode format both pointers.  That
FOP comes back from a protected-mode image, which holds none, rests on log entry 27: FRSTOR leaves it alone. -/
def Obligations.SaveThenRestoreGivesTheStateBack : Prop :=
  ∀ (q : List Prefix) (m : MemOp) (s : State), s.Sound → s.Ready false →
    s.Reachable q m true (s.imageFormat q).stateSize → s.Reachable q m false (s.imageFormat q).stateSize →
      ∃ t u, exec (.fnsave q m) s = .next t ∧ exec (.frstor q m) t = .next u
        ∧ u.regs = s.regs ∧ u.empty = s.empty ∧ u.cw = s.cw ∧ u.sw = s.sw ∧ u.fop = s.fop
        ∧ (s.imageFormat q = .prot32 → u.fip = s.fip ∧ u.fdp = s.fdp)

/-- R346, R347: FINCSTP (D9 F7) adds 1 to TOP and FDECSTP (D9 F6) subtracts 1, modulo 8; C1 is cleared, and no tag,
register or exception flag changes, whatever the tags are; the tests before an ESC instruction come first. -/
def Obligations.StackPointerInstructionsMoveTop : Prop :=
  ∀ (q : List Prefix) (s : State) (i : Instr) (n : Nat),
    (i = .fincstp q ∧ n = 1) ∨ (i = .fdecstp q ∧ n = 7) →
      (Instr.fincstp []).encode = [0xD9, 0xF7] ∧ (Instr.fdecstp []).encode = [0xD9, 0xF6] ∧ escGates i s
        ∧ (s.Ready true →
            ∃ t, exec i s = .next t ∧ t.sw.top.val = (s.sw.top.val + n) % 8 ∧ t.sw.c1 = false ∧ t.regs = s.regs
              ∧ t.empty = s.empty ∧ s.Raised t [] ∧ t.mem = s.mem ∧ s.CompletedNumeric t i)

/-- R348, R349, R350, R360: FFREE marks ST(i) empty and keeps its bits; FNOP, FENI, FDISI and FSETPM do nothing; none
changes anything else of the numeric processor but the pointers; and WAIT with nothing pending, whatever EM is, changes
nothing but the instruction pointer.  That the condition code stays is decision D9, and that FENI, FDISI and FSETPM go
through the prelude and record the pointers as FNOP does is decision D29 (log entry 26). -/
def Obligations.FfreeFnopAndWaitKeepTheRest : Prop :=
  ∀ (q : List Prefix) (j : Fin 8) (s : State),
    ((s.cr0.mp && s.cr0.ts) = false → s.sw.es = false →
      ∃ t, exec (.wait q) s = .next t ∧ s.Completed t (.wait q) ∧ t.regs = s.regs ∧ t.empty = s.empty ∧ t.sw = s.sw
        ∧ t.cw = s.cw ∧ s.KeepsPointers t ∧ t.mem = s.mem) ∧
    (s.Ready true →
    (∃ t, exec (.ffree q j) s = .next t ∧ t.stEmpty j = true ∧ s.KeepsTags t [s.phys j] ∧ t.regs = s.regs
        ∧ t.sw = s.sw ∧ t.mem = s.mem ∧ s.CompletedNumeric t (.ffree q j))
      ∧ ∀ i, i = .fnop q ∨ i = .feni q ∨ i = .fdisi q ∨ i = .fsetpm q →
        ∃ t, exec i s = .next t ∧ t.sw = s.sw ∧ t.regs = s.regs ∧ t.empty = s.empty ∧ t.mem = s.mem
          ∧ s.CompletedNumeric t i)
end

