-- ==== Sys2Proof/Laws/Memory.lean ====
section
/-! SUPPORT. Memory: every operation keeps the canonical form, and a byte reads as it was last written. -/

namespace Sys2Proof.Machine

theorem wfFrom_weaken {lo lo' : Nat} (h : lo' ≤ lo) : ∀ {m : List Host.Cell}, wfFrom lo m = true → wfFrom lo' m = true
  | [], _ => rfl
  | (a, v) :: rest, hm => by
    simp only [wfFrom, Bool.and_eq_true, decide_eq_true_eq] at hm ⊢
    exact ⟨⟨by omega, hm.1.2⟩, hm.2⟩

theorem wfFrom_consCell {lo a : Nat} (v : Byte) {m : List Host.Cell} (h : lo ≤ a) (hm : wfFrom (a + 1) m = true) :
    wfFrom lo (consCell a v m) = true := by
  unfold consCell
  split
  · exact wfFrom_weaken (by omega) hm
  · simp_all [wfFrom]

theorem wfFrom_writeByte {lo a : Nat} (v : Byte) (h : lo ≤ a) :
    ∀ {m : List Host.Cell}, wfFrom lo m = true → wfFrom lo (writeByte m a v) = true
  | [], _ => wfFrom_consCell v h rfl
  | (b, w) :: rest, hm => by
    have hm' := hm
    simp only [wfFrom, Bool.and_eq_true, decide_eq_true_eq] at hm'
    unfold writeByte
    split
    · exact wfFrom_consCell v h (by simp only [wfFrom, Bool.and_eq_true, decide_eq_true_eq]; exact ⟨⟨by omega, hm'.1.2⟩, hm'.2⟩)
    · split
      · subst_vars; exact wfFrom_consCell v h hm'.2
      · simp only [wfFrom, Bool.and_eq_true, decide_eq_true_eq]
        exact ⟨hm'.1, wfFrom_writeByte (lo := b + 1) v (by omega) hm'.2⟩

/-- A write keeps the canonical form of memory. -/
theorem writeByte_wf {m : List Host.Cell} (a : Nat) (v : Byte) (h : Memory.wf m = true) :
    Memory.wf (writeByte m a v) = true := wfFrom_writeByte v (Nat.zero_le a) h

/-- A write of several bytes keeps the canonical form of memory. -/
theorem writeBytes_wf {m : List Host.Cell} (h : Memory.wf m = true) :
    ∀ (as : List Nat) (vs : List Byte), Memory.wf (writeBytes m as vs) = true
  | [], vs => by cases vs <;> exact h
  | _ :: _, [] => h
  | a :: as, v :: vs => writeBytes_wf (writeByte_wf a v h) as vs

theorem reset_mem_wf : Memory.wf State.reset.mem = true := rfl

theorem wfFrom_readByte_lt {lo a : Nat} (h : a < lo) :
    ∀ {m : List Host.Cell}, wfFrom lo m = true → readByte m a = unwritten
  | [], _ => rfl
  | (b, w) :: rest, hm => by
    simp only [wfFrom, Bool.and_eq_true, decide_eq_true_eq] at hm
    have : a ≠ b := by omega
    simp only [readByte, this, if_false]
    exact wfFrom_readByte_lt (lo := b + 1) (by omega) hm.2

theorem readByte_consCell (m : List Host.Cell) (a c : Nat) (v : Byte) (h : readByte m a = unwritten) :
    readByte (consCell a v m) c = if c = a then v else readByte m c := by
  unfold consCell
  split
  · subst_vars
    split
    · subst_vars; exact h
    · rfl
  · rfl

theorem wfFrom_readByte_writeByte {lo : Nat} (a c : Nat) (v : Byte) :
    ∀ {m : List Host.Cell}, wfFrom lo m = true →
      readByte (writeByte m a v) c = if c = a then v else readByte m c
  | [], _ => by
    unfold writeByte
    exact readByte_consCell _ _ _ _ rfl
  | (b, w) :: rest, hm => by
    have hm' := hm
    simp only [wfFrom, Bool.and_eq_true, decide_eq_true_eq] at hm'
    unfold writeByte
    split
    · refine readByte_consCell _ _ _ _ (wfFrom_readByte_lt (lo := b) (by omega) ?_)
      simp only [wfFrom, Bool.and_eq_true, decide_eq_true_eq]
      exact ⟨⟨Nat.le_refl b, hm'.1.2⟩, hm'.2⟩
    · split
      · subst_vars
        rw [readByte_consCell _ _ _ _ (wfFrom_readByte_lt (lo := b + 1) (by omega) hm'.2)]
        by_cases hc : c = b <;> simp [readByte, hc]
      · simp only [readByte]
        rw [wfFrom_readByte_writeByte (lo := b + 1) a c v hm'.2]
        by_cases hc : c = b
        · have : c ≠ a := by omega
          simp [hc, show b ≠ a by omega]
        · simp [hc]

/-- Reading after a write: the byte written, and every other byte as before. -/
theorem readByte_writeByte {m : List Host.Cell} (a c : Nat) (v : Byte) (h : Memory.wf m = true) :
    readByte (writeByte m a v) c = if c = a then v else readByte m c := wfFrom_readByte_writeByte a c v h

/-- A write leaves every other byte alone, in any memory. -/
theorem readByte_writeByte_other {a c : Nat} (v : Byte) (h : c ≠ a) :
    ∀ m : List Host.Cell, readByte (writeByte m a v) c = readByte m c
  | [] => by simp only [writeByte, consCell]; split <;> simp [readByte, h]
  | (b, w) :: rest => by
    simp only [writeByte, consCell]
    have ih := readByte_writeByte_other v h rest
    by_cases hab : a < b
    · simp only [hab, if_true]; split <;> simp [readByte, h]
    · by_cases hb : a = b
      · subst hb; simp only [hab, if_true, if_false]; split <;> simp [readByte, h]
      · simp only [hab, hb, if_false, readByte, ih]

/-- A write of several bytes leaves every other byte alone, in any memory. -/
theorem readByte_writeBytes_other (c : Nat) :
    ∀ (m : List Host.Cell) (as : List Nat) (vs : List Byte), c ∉ as → readByte (writeBytes m as vs) c = readByte m c
  | _, [], vs, _ => by cases vs <;> rfl
  | _, _ :: _, [], _ => rfl
  | m, a :: as, v :: vs, hc => by
    simp only [List.mem_cons, not_or] at hc
    rw [writeBytes, readByte_writeBytes_other c _ as vs hc.2, readByte_writeByte_other v hc.1]

/-- Bytes written at distinct addresses read back in order. -/
theorem readBytes_writeBytes {m : List Host.Cell} (h : Memory.wf m = true) :
    ∀ (as : List Nat) (vs : List Byte), as.Nodup → as.length = vs.length → readBytes (writeBytes m as vs) as = vs
  | [], [], _, _ => rfl
  | a :: as, v :: vs, hn, hl => by
    simp only [List.nodup_cons] at hn
    have ih := readBytes_writeBytes (writeByte_wf a v h) as vs hn.2 (by simpa using hl)
    simp only [readBytes] at ih
    simp only [readBytes, List.map_cons, writeBytes, List.cons.injEq, ih, and_true]
    rw [readByte_writeBytes_other a _ as vs hn.1, readByte_writeByte a a v h, if_pos rfl]

@[simp] theorem readBytes_length (m : List Host.Cell) (as : List Nat) : (readBytes m as).length = as.length := by
  simp [readBytes]

@[simp] theorem addrs_length (s : State) (g : Segment) (off : Word32) (n : Nat) : (s.addrs g off n).length = n := by
  simp [State.addrs]

end Sys2Proof.Machine
end

