-- ==== Sys2Proof/Laws/State.lean ====
section
/-! SUPPORT. What each update of the state leaves in each field: one lemma per field per update, by `rfl`. -/

namespace Sys2Proof.Machine

/-! ## setSw -/

@[simp] theorem State.setSw_regs (s : State) (w : StatusWord) : (s.setSw w).regs = s.regs := rfl
@[simp] theorem State.setSw_empty (s : State) (w : StatusWord) : (s.setSw w).empty = s.empty := rfl
@[simp] theorem State.setSw_sw (s : State) (w : StatusWord) : (s.setSw w).sw = w := rfl
@[simp] theorem State.setSw_cw (s : State) (w : StatusWord) : (s.setSw w).cw = s.cw := rfl
@[simp] theorem State.setSw_fip (s : State) (w : StatusWord) : (s.setSw w).fip = s.fip := rfl
@[simp] theorem State.setSw_fdp (s : State) (w : StatusWord) : (s.setSw w).fdp = s.fdp := rfl
@[simp] theorem State.setSw_fop (s : State) (w : StatusWord) : (s.setSw w).fop = s.fop := rfl
@[simp] theorem State.setSw_gpr (s : State) (w : StatusWord) : (s.setSw w).gpr = s.gpr := rfl
@[simp] theorem State.setSw_seg (s : State) (w : StatusWord) : (s.setSw w).seg = s.seg := rfl
@[simp] theorem State.setSw_eip (s : State) (w : StatusWord) : (s.setSw w).eip = s.eip := rfl
@[simp] theorem State.setSw_mode (s : State) (w : StatusWord) : (s.setSw w).mode = s.mode := rfl
@[simp] theorem State.setSw_cr0 (s : State) (w : StatusWord) : (s.setSw w).cr0 = s.cr0 := rfl
@[simp] theorem State.setSw_flags (s : State) (w : StatusWord) : (s.setSw w).flags = s.flags := rfl
@[simp] theorem State.setSw_gates (s : State) (w : StatusWord) : (s.setSw w).gates = s.gates := rfl
@[simp] theorem State.setSw_links (s : State) (w : StatusWord) : (s.setSw w).links = s.links := rfl
@[simp] theorem State.setSw_denied (s : State) (w : StatusWord) : (s.setSw w).denied = s.denied := rfl
@[simp] theorem State.setSw_mem (s : State) (w : StatusWord) : (s.setSw w).mem = s.mem := rfl
@[simp] theorem State.setSw_params (s : State) (w : StatusWord) : (s.setSw w).params = s.params := rfl
@[simp] theorem State.setSw_draws (s : State) (w : StatusWord) : (s.setSw w).draws = s.draws := rfl
@[simp] theorem State.setSw_overrun (s : State) (w : StatusWord) : (s.setSw w).overrun = s.overrun := rfl
@[simp] theorem State.setSw_stored (s : State) (w : StatusWord) : (s.setSw w).stored = s.stored := rfl
@[simp] theorem State.setSw_pendingStores (s : State) (w : StatusWord) :
    (s.setSw w).pendingStores = s.pendingStores := rfl
@[simp] theorem State.setSw_pendingLoads (s : State) (w : StatusWord) :
    (s.setSw w).pendingLoads = s.pendingLoads := rfl
@[simp] theorem State.setSw_inputs (s : State) (w : StatusWord) : (s.setSw w).inputs = s.inputs := rfl

/-! ## setC0 -/

@[simp] theorem State.setC0_regs (s : State) (b : Bool) : (s.setC0 b).regs = s.regs := rfl
@[simp] theorem State.setC0_empty (s : State) (b : Bool) : (s.setC0 b).empty = s.empty := rfl
@[simp] theorem State.setC0_sw (s : State) (b : Bool) : (s.setC0 b).sw = { s.sw with c0 := b } := rfl
@[simp] theorem State.setC0_cw (s : State) (b : Bool) : (s.setC0 b).cw = s.cw := rfl
@[simp] theorem State.setC0_fip (s : State) (b : Bool) : (s.setC0 b).fip = s.fip := rfl
@[simp] theorem State.setC0_fdp (s : State) (b : Bool) : (s.setC0 b).fdp = s.fdp := rfl
@[simp] theorem State.setC0_fop (s : State) (b : Bool) : (s.setC0 b).fop = s.fop := rfl
@[simp] theorem State.setC0_gpr (s : State) (b : Bool) : (s.setC0 b).gpr = s.gpr := rfl
@[simp] theorem State.setC0_seg (s : State) (b : Bool) : (s.setC0 b).seg = s.seg := rfl
@[simp] theorem State.setC0_eip (s : State) (b : Bool) : (s.setC0 b).eip = s.eip := rfl
@[simp] theorem State.setC0_mode (s : State) (b : Bool) : (s.setC0 b).mode = s.mode := rfl
@[simp] theorem State.setC0_cr0 (s : State) (b : Bool) : (s.setC0 b).cr0 = s.cr0 := rfl
@[simp] theorem State.setC0_flags (s : State) (b : Bool) : (s.setC0 b).flags = s.flags := rfl
@[simp] theorem State.setC0_gates (s : State) (b : Bool) : (s.setC0 b).gates = s.gates := rfl
@[simp] theorem State.setC0_links (s : State) (b : Bool) : (s.setC0 b).links = s.links := rfl
@[simp] theorem State.setC0_denied (s : State) (b : Bool) : (s.setC0 b).denied = s.denied := rfl
@[simp] theorem State.setC0_mem (s : State) (b : Bool) : (s.setC0 b).mem = s.mem := rfl
@[simp] theorem State.setC0_params (s : State) (b : Bool) : (s.setC0 b).params = s.params := rfl
@[simp] theorem State.setC0_draws (s : State) (b : Bool) : (s.setC0 b).draws = s.draws := rfl
@[simp] theorem State.setC0_overrun (s : State) (b : Bool) : (s.setC0 b).overrun = s.overrun := rfl
@[simp] theorem State.setC0_stored (s : State) (b : Bool) : (s.setC0 b).stored = s.stored := rfl
@[simp] theorem State.setC0_pendingStores (s : State) (b : Bool) : (s.setC0 b).pendingStores = s.pendingStores := rfl
@[simp] theorem State.setC0_pendingLoads (s : State) (b : Bool) : (s.setC0 b).pendingLoads = s.pendingLoads := rfl
@[simp] theorem State.setC0_inputs (s : State) (b : Bool) : (s.setC0 b).inputs = s.inputs := rfl

/-! ## setC1 -/

@[simp] theorem State.setC1_regs (s : State) (b : Bool) : (s.setC1 b).regs = s.regs := rfl
@[simp] theorem State.setC1_empty (s : State) (b : Bool) : (s.setC1 b).empty = s.empty := rfl
@[simp] theorem State.setC1_sw (s : State) (b : Bool) : (s.setC1 b).sw = { s.sw with c1 := b } := rfl
@[simp] theorem State.setC1_cw (s : State) (b : Bool) : (s.setC1 b).cw = s.cw := rfl
@[simp] theorem State.setC1_fip (s : State) (b : Bool) : (s.setC1 b).fip = s.fip := rfl
@[simp] theorem State.setC1_fdp (s : State) (b : Bool) : (s.setC1 b).fdp = s.fdp := rfl
@[simp] theorem State.setC1_fop (s : State) (b : Bool) : (s.setC1 b).fop = s.fop := rfl
@[simp] theorem State.setC1_gpr (s : State) (b : Bool) : (s.setC1 b).gpr = s.gpr := rfl
@[simp] theorem State.setC1_seg (s : State) (b : Bool) : (s.setC1 b).seg = s.seg := rfl
@[simp] theorem State.setC1_eip (s : State) (b : Bool) : (s.setC1 b).eip = s.eip := rfl
@[simp] theorem State.setC1_mode (s : State) (b : Bool) : (s.setC1 b).mode = s.mode := rfl
@[simp] theorem State.setC1_cr0 (s : State) (b : Bool) : (s.setC1 b).cr0 = s.cr0 := rfl
@[simp] theorem State.setC1_flags (s : State) (b : Bool) : (s.setC1 b).flags = s.flags := rfl
@[simp] theorem State.setC1_gates (s : State) (b : Bool) : (s.setC1 b).gates = s.gates := rfl
@[simp] theorem State.setC1_links (s : State) (b : Bool) : (s.setC1 b).links = s.links := rfl
@[simp] theorem State.setC1_denied (s : State) (b : Bool) : (s.setC1 b).denied = s.denied := rfl
@[simp] theorem State.setC1_mem (s : State) (b : Bool) : (s.setC1 b).mem = s.mem := rfl
@[simp] theorem State.setC1_params (s : State) (b : Bool) : (s.setC1 b).params = s.params := rfl
@[simp] theorem State.setC1_draws (s : State) (b : Bool) : (s.setC1 b).draws = s.draws := rfl
@[simp] theorem State.setC1_overrun (s : State) (b : Bool) : (s.setC1 b).overrun = s.overrun := rfl
@[simp] theorem State.setC1_stored (s : State) (b : Bool) : (s.setC1 b).stored = s.stored := rfl
@[simp] theorem State.setC1_pendingStores (s : State) (b : Bool) : (s.setC1 b).pendingStores = s.pendingStores := rfl
@[simp] theorem State.setC1_pendingLoads (s : State) (b : Bool) : (s.setC1 b).pendingLoads = s.pendingLoads := rfl
@[simp] theorem State.setC1_inputs (s : State) (b : Bool) : (s.setC1 b).inputs = s.inputs := rfl

/-! ## setC2 -/

@[simp] theorem State.setC2_regs (s : State) (b : Bool) : (s.setC2 b).regs = s.regs := rfl
@[simp] theorem State.setC2_empty (s : State) (b : Bool) : (s.setC2 b).empty = s.empty := rfl
@[simp] theorem State.setC2_sw (s : State) (b : Bool) : (s.setC2 b).sw = { s.sw with c2 := b } := rfl
@[simp] theorem State.setC2_cw (s : State) (b : Bool) : (s.setC2 b).cw = s.cw := rfl
@[simp] theorem State.setC2_fip (s : State) (b : Bool) : (s.setC2 b).fip = s.fip := rfl
@[simp] theorem State.setC2_fdp (s : State) (b : Bool) : (s.setC2 b).fdp = s.fdp := rfl
@[simp] theorem State.setC2_fop (s : State) (b : Bool) : (s.setC2 b).fop = s.fop := rfl
@[simp] theorem State.setC2_gpr (s : State) (b : Bool) : (s.setC2 b).gpr = s.gpr := rfl
@[simp] theorem State.setC2_seg (s : State) (b : Bool) : (s.setC2 b).seg = s.seg := rfl
@[simp] theorem State.setC2_eip (s : State) (b : Bool) : (s.setC2 b).eip = s.eip := rfl
@[simp] theorem State.setC2_mode (s : State) (b : Bool) : (s.setC2 b).mode = s.mode := rfl
@[simp] theorem State.setC2_cr0 (s : State) (b : Bool) : (s.setC2 b).cr0 = s.cr0 := rfl
@[simp] theorem State.setC2_flags (s : State) (b : Bool) : (s.setC2 b).flags = s.flags := rfl
@[simp] theorem State.setC2_gates (s : State) (b : Bool) : (s.setC2 b).gates = s.gates := rfl
@[simp] theorem State.setC2_links (s : State) (b : Bool) : (s.setC2 b).links = s.links := rfl
@[simp] theorem State.setC2_denied (s : State) (b : Bool) : (s.setC2 b).denied = s.denied := rfl
@[simp] theorem State.setC2_mem (s : State) (b : Bool) : (s.setC2 b).mem = s.mem := rfl
@[simp] theorem State.setC2_params (s : State) (b : Bool) : (s.setC2 b).params = s.params := rfl
@[simp] theorem State.setC2_draws (s : State) (b : Bool) : (s.setC2 b).draws = s.draws := rfl
@[simp] theorem State.setC2_overrun (s : State) (b : Bool) : (s.setC2 b).overrun = s.overrun := rfl
@[simp] theorem State.setC2_stored (s : State) (b : Bool) : (s.setC2 b).stored = s.stored := rfl
@[simp] theorem State.setC2_pendingStores (s : State) (b : Bool) : (s.setC2 b).pendingStores = s.pendingStores := rfl
@[simp] theorem State.setC2_pendingLoads (s : State) (b : Bool) : (s.setC2 b).pendingLoads = s.pendingLoads := rfl
@[simp] theorem State.setC2_inputs (s : State) (b : Bool) : (s.setC2 b).inputs = s.inputs := rfl

/-! ## setC3 -/

@[simp] theorem State.setC3_regs (s : State) (b : Bool) : (s.setC3 b).regs = s.regs := rfl
@[simp] theorem State.setC3_empty (s : State) (b : Bool) : (s.setC3 b).empty = s.empty := rfl
@[simp] theorem State.setC3_sw (s : State) (b : Bool) : (s.setC3 b).sw = { s.sw with c3 := b } := rfl
@[simp] theorem State.setC3_cw (s : State) (b : Bool) : (s.setC3 b).cw = s.cw := rfl
@[simp] theorem State.setC3_fip (s : State) (b : Bool) : (s.setC3 b).fip = s.fip := rfl
@[simp] theorem State.setC3_fdp (s : State) (b : Bool) : (s.setC3 b).fdp = s.fdp := rfl
@[simp] theorem State.setC3_fop (s : State) (b : Bool) : (s.setC3 b).fop = s.fop := rfl
@[simp] theorem State.setC3_gpr (s : State) (b : Bool) : (s.setC3 b).gpr = s.gpr := rfl
@[simp] theorem State.setC3_seg (s : State) (b : Bool) : (s.setC3 b).seg = s.seg := rfl
@[simp] theorem State.setC3_eip (s : State) (b : Bool) : (s.setC3 b).eip = s.eip := rfl
@[simp] theorem State.setC3_mode (s : State) (b : Bool) : (s.setC3 b).mode = s.mode := rfl
@[simp] theorem State.setC3_cr0 (s : State) (b : Bool) : (s.setC3 b).cr0 = s.cr0 := rfl
@[simp] theorem State.setC3_flags (s : State) (b : Bool) : (s.setC3 b).flags = s.flags := rfl
@[simp] theorem State.setC3_gates (s : State) (b : Bool) : (s.setC3 b).gates = s.gates := rfl
@[simp] theorem State.setC3_links (s : State) (b : Bool) : (s.setC3 b).links = s.links := rfl
@[simp] theorem State.setC3_denied (s : State) (b : Bool) : (s.setC3 b).denied = s.denied := rfl
@[simp] theorem State.setC3_mem (s : State) (b : Bool) : (s.setC3 b).mem = s.mem := rfl
@[simp] theorem State.setC3_params (s : State) (b : Bool) : (s.setC3 b).params = s.params := rfl
@[simp] theorem State.setC3_draws (s : State) (b : Bool) : (s.setC3 b).draws = s.draws := rfl
@[simp] theorem State.setC3_overrun (s : State) (b : Bool) : (s.setC3 b).overrun = s.overrun := rfl
@[simp] theorem State.setC3_stored (s : State) (b : Bool) : (s.setC3 b).stored = s.stored := rfl
@[simp] theorem State.setC3_pendingStores (s : State) (b : Bool) : (s.setC3 b).pendingStores = s.pendingStores := rfl
@[simp] theorem State.setC3_pendingLoads (s : State) (b : Bool) : (s.setC3 b).pendingLoads = s.pendingLoads := rfl
@[simp] theorem State.setC3_inputs (s : State) (b : Bool) : (s.setC3 b).inputs = s.inputs := rfl

/-! ## setTop -/

@[simp] theorem State.setTop_regs (s : State) (t : Fin 8) : (s.setTop t).regs = s.regs := rfl
@[simp] theorem State.setTop_empty (s : State) (t : Fin 8) : (s.setTop t).empty = s.empty := rfl
@[simp] theorem State.setTop_sw (s : State) (t : Fin 8) : (s.setTop t).sw = { s.sw with top := t } := rfl
@[simp] theorem State.setTop_cw (s : State) (t : Fin 8) : (s.setTop t).cw = s.cw := rfl
@[simp] theorem State.setTop_fip (s : State) (t : Fin 8) : (s.setTop t).fip = s.fip := rfl
@[simp] theorem State.setTop_fdp (s : State) (t : Fin 8) : (s.setTop t).fdp = s.fdp := rfl
@[simp] theorem State.setTop_fop (s : State) (t : Fin 8) : (s.setTop t).fop = s.fop := rfl
@[simp] theorem State.setTop_gpr (s : State) (t : Fin 8) : (s.setTop t).gpr = s.gpr := rfl
@[simp] theorem State.setTop_seg (s : State) (t : Fin 8) : (s.setTop t).seg = s.seg := rfl
@[simp] theorem State.setTop_eip (s : State) (t : Fin 8) : (s.setTop t).eip = s.eip := rfl
@[simp] theorem State.setTop_mode (s : State) (t : Fin 8) : (s.setTop t).mode = s.mode := rfl
@[simp] theorem State.setTop_cr0 (s : State) (t : Fin 8) : (s.setTop t).cr0 = s.cr0 := rfl
@[simp] theorem State.setTop_flags (s : State) (t : Fin 8) : (s.setTop t).flags = s.flags := rfl
@[simp] theorem State.setTop_gates (s : State) (t : Fin 8) : (s.setTop t).gates = s.gates := rfl
@[simp] theorem State.setTop_links (s : State) (t : Fin 8) : (s.setTop t).links = s.links := rfl
@[simp] theorem State.setTop_denied (s : State) (t : Fin 8) : (s.setTop t).denied = s.denied := rfl
@[simp] theorem State.setTop_mem (s : State) (t : Fin 8) : (s.setTop t).mem = s.mem := rfl
@[simp] theorem State.setTop_params (s : State) (t : Fin 8) : (s.setTop t).params = s.params := rfl
@[simp] theorem State.setTop_draws (s : State) (t : Fin 8) : (s.setTop t).draws = s.draws := rfl
@[simp] theorem State.setTop_overrun (s : State) (t : Fin 8) : (s.setTop t).overrun = s.overrun := rfl
@[simp] theorem State.setTop_stored (s : State) (t : Fin 8) : (s.setTop t).stored = s.stored := rfl
@[simp] theorem State.setTop_pendingStores (s : State) (t : Fin 8) :
    (s.setTop t).pendingStores = s.pendingStores := rfl
@[simp] theorem State.setTop_pendingLoads (s : State) (t : Fin 8) : (s.setTop t).pendingLoads = s.pendingLoads := rfl
@[simp] theorem State.setTop_inputs (s : State) (t : Fin 8) : (s.setTop t).inputs = s.inputs := rfl

/-! ## setCompare -/

@[simp] theorem State.setCompare_regs (s : State) (c3 c2 c0 : Bool) : (s.setCompare c3 c2 c0).regs = s.regs := rfl
@[simp] theorem State.setCompare_empty (s : State) (c3 c2 c0 : Bool) : (s.setCompare c3 c2 c0).empty = s.empty := rfl
@[simp] theorem State.setCompare_sw (s : State) (c3 c2 c0 : Bool) :
    (s.setCompare c3 c2 c0).sw = { s.sw with c3 := c3, c2 := c2, c0 := c0 } := rfl
@[simp] theorem State.setCompare_cw (s : State) (c3 c2 c0 : Bool) : (s.setCompare c3 c2 c0).cw = s.cw := rfl
@[simp] theorem State.setCompare_fip (s : State) (c3 c2 c0 : Bool) : (s.setCompare c3 c2 c0).fip = s.fip := rfl
@[simp] theorem State.setCompare_fdp (s : State) (c3 c2 c0 : Bool) : (s.setCompare c3 c2 c0).fdp = s.fdp := rfl
@[simp] theorem State.setCompare_fop (s : State) (c3 c2 c0 : Bool) : (s.setCompare c3 c2 c0).fop = s.fop := rfl
@[simp] theorem State.setCompare_gpr (s : State) (c3 c2 c0 : Bool) : (s.setCompare c3 c2 c0).gpr = s.gpr := rfl
@[simp] theorem State.setCompare_seg (s : State) (c3 c2 c0 : Bool) : (s.setCompare c3 c2 c0).seg = s.seg := rfl
@[simp] theorem State.setCompare_eip (s : State) (c3 c2 c0 : Bool) : (s.setCompare c3 c2 c0).eip = s.eip := rfl
@[simp] theorem State.setCompare_mode (s : State) (c3 c2 c0 : Bool) : (s.setCompare c3 c2 c0).mode = s.mode := rfl
@[simp] theorem State.setCompare_cr0 (s : State) (c3 c2 c0 : Bool) : (s.setCompare c3 c2 c0).cr0 = s.cr0 := rfl
@[simp] theorem State.setCompare_flags (s : State) (c3 c2 c0 : Bool) : (s.setCompare c3 c2 c0).flags = s.flags := rfl
@[simp] theorem State.setCompare_gates (s : State) (c3 c2 c0 : Bool) : (s.setCompare c3 c2 c0).gates = s.gates := rfl
@[simp] theorem State.setCompare_links (s : State) (c3 c2 c0 : Bool) : (s.setCompare c3 c2 c0).links = s.links := rfl
@[simp] theorem State.setCompare_denied (s : State) (c3 c2 c0 : Bool) :
    (s.setCompare c3 c2 c0).denied = s.denied := rfl
@[simp] theorem State.setCompare_mem (s : State) (c3 c2 c0 : Bool) : (s.setCompare c3 c2 c0).mem = s.mem := rfl
@[simp] theorem State.setCompare_params (s : State) (c3 c2 c0 : Bool) :
    (s.setCompare c3 c2 c0).params = s.params := rfl
@[simp] theorem State.setCompare_draws (s : State) (c3 c2 c0 : Bool) : (s.setCompare c3 c2 c0).draws = s.draws := rfl
@[simp] theorem State.setCompare_overrun (s : State) (c3 c2 c0 : Bool) :
    (s.setCompare c3 c2 c0).overrun = s.overrun := rfl
@[simp] theorem State.setCompare_stored (s : State) (c3 c2 c0 : Bool) :
    (s.setCompare c3 c2 c0).stored = s.stored := rfl
@[simp] theorem State.setCompare_pendingStores (s : State) (c3 c2 c0 : Bool) :
    (s.setCompare c3 c2 c0).pendingStores = s.pendingStores := rfl
@[simp] theorem State.setCompare_pendingLoads (s : State) (c3 c2 c0 : Bool) :
    (s.setCompare c3 c2 c0).pendingLoads = s.pendingLoads := rfl
@[simp] theorem State.setCompare_inputs (s : State) (c3 c2 c0 : Bool) :
    (s.setCompare c3 c2 c0).inputs = s.inputs := rfl

/-! ## loadWords -/

@[simp] theorem State.loadWords_regs (s : State) (c : Word16) (w : StatusWord) :
    (s.loadWords c w).regs = s.regs := rfl
@[simp] theorem State.loadWords_empty (s : State) (c : Word16) (w : StatusWord) :
    (s.loadWords c w).empty = s.empty := rfl
@[simp] theorem State.loadWords_sw (s : State) (c : Word16) (w : StatusWord) :
    (s.loadWords c w).sw = w.summarise c := rfl
@[simp] theorem State.loadWords_cw (s : State) (c : Word16) (w : StatusWord) : (s.loadWords c w).cw = c := rfl
@[simp] theorem State.loadWords_fip (s : State) (c : Word16) (w : StatusWord) : (s.loadWords c w).fip = s.fip := rfl
@[simp] theorem State.loadWords_fdp (s : State) (c : Word16) (w : StatusWord) : (s.loadWords c w).fdp = s.fdp := rfl
@[simp] theorem State.loadWords_fop (s : State) (c : Word16) (w : StatusWord) : (s.loadWords c w).fop = s.fop := rfl
@[simp] theorem State.loadWords_gpr (s : State) (c : Word16) (w : StatusWord) : (s.loadWords c w).gpr = s.gpr := rfl
@[simp] theorem State.loadWords_seg (s : State) (c : Word16) (w : StatusWord) : (s.loadWords c w).seg = s.seg := rfl
@[simp] theorem State.loadWords_eip (s : State) (c : Word16) (w : StatusWord) : (s.loadWords c w).eip = s.eip := rfl
@[simp] theorem State.loadWords_mode (s : State) (c : Word16) (w : StatusWord) :
    (s.loadWords c w).mode = s.mode := rfl
@[simp] theorem State.loadWords_cr0 (s : State) (c : Word16) (w : StatusWord) : (s.loadWords c w).cr0 = s.cr0 := rfl
@[simp] theorem State.loadWords_flags (s : State) (c : Word16) (w : StatusWord) :
    (s.loadWords c w).flags = s.flags := rfl
@[simp] theorem State.loadWords_gates (s : State) (c : Word16) (w : StatusWord) :
    (s.loadWords c w).gates = s.gates := rfl
@[simp] theorem State.loadWords_links (s : State) (c : Word16) (w : StatusWord) :
    (s.loadWords c w).links = s.links := rfl
@[simp] theorem State.loadWords_denied (s : State) (c : Word16) (w : StatusWord) :
    (s.loadWords c w).denied = s.denied := rfl
@[simp] theorem State.loadWords_mem (s : State) (c : Word16) (w : StatusWord) : (s.loadWords c w).mem = s.mem := rfl
@[simp] theorem State.loadWords_params (s : State) (c : Word16) (w : StatusWord) :
    (s.loadWords c w).params = s.params := rfl
@[simp] theorem State.loadWords_draws (s : State) (c : Word16) (w : StatusWord) :
    (s.loadWords c w).draws = s.draws := rfl
@[simp] theorem State.loadWords_overrun (s : State) (c : Word16) (w : StatusWord) :
    (s.loadWords c w).overrun = s.overrun := rfl
@[simp] theorem State.loadWords_stored (s : State) (c : Word16) (w : StatusWord) :
    (s.loadWords c w).stored = s.stored := rfl
@[simp] theorem State.loadWords_pendingStores (s : State) (c : Word16) (w : StatusWord) :
    (s.loadWords c w).pendingStores = s.pendingStores := rfl
@[simp] theorem State.loadWords_pendingLoads (s : State) (c : Word16) (w : StatusWord) :
    (s.loadWords c w).pendingLoads = s.pendingLoads := rfl
@[simp] theorem State.loadWords_inputs (s : State) (c : Word16) (w : StatusWord) :
    (s.loadWords c w).inputs = s.inputs := rfl

/-! ## raise -/

@[simp] theorem State.raise_regs (s : State) (x : Exc) : (s.raise x).regs = s.regs := rfl
@[simp] theorem State.raise_empty (s : State) (x : Exc) : (s.raise x).empty = s.empty := rfl
@[simp] theorem State.raise_sw (s : State) (x : Exc) :
    (s.raise x).sw = { s.sw.setFlag x with es := s.sw.es || !masked s.cw x, busy := s.sw.busy || !masked s.cw x } := rfl
@[simp] theorem State.raise_cw (s : State) (x : Exc) : (s.raise x).cw = s.cw := rfl
@[simp] theorem State.raise_fip (s : State) (x : Exc) : (s.raise x).fip = s.fip := rfl
@[simp] theorem State.raise_fdp (s : State) (x : Exc) : (s.raise x).fdp = s.fdp := rfl
@[simp] theorem State.raise_fop (s : State) (x : Exc) : (s.raise x).fop = s.fop := rfl
@[simp] theorem State.raise_gpr (s : State) (x : Exc) : (s.raise x).gpr = s.gpr := rfl
@[simp] theorem State.raise_seg (s : State) (x : Exc) : (s.raise x).seg = s.seg := rfl
@[simp] theorem State.raise_eip (s : State) (x : Exc) : (s.raise x).eip = s.eip := rfl
@[simp] theorem State.raise_mode (s : State) (x : Exc) : (s.raise x).mode = s.mode := rfl
@[simp] theorem State.raise_cr0 (s : State) (x : Exc) : (s.raise x).cr0 = s.cr0 := rfl
@[simp] theorem State.raise_flags (s : State) (x : Exc) : (s.raise x).flags = s.flags := rfl
@[simp] theorem State.raise_gates (s : State) (x : Exc) : (s.raise x).gates = s.gates := rfl
@[simp] theorem State.raise_links (s : State) (x : Exc) : (s.raise x).links = s.links := rfl
@[simp] theorem State.raise_denied (s : State) (x : Exc) : (s.raise x).denied = s.denied := rfl
@[simp] theorem State.raise_mem (s : State) (x : Exc) : (s.raise x).mem = s.mem := rfl
@[simp] theorem State.raise_params (s : State) (x : Exc) : (s.raise x).params = s.params := rfl
@[simp] theorem State.raise_draws (s : State) (x : Exc) : (s.raise x).draws = s.draws := rfl
@[simp] theorem State.raise_overrun (s : State) (x : Exc) : (s.raise x).overrun = s.overrun := rfl
@[simp] theorem State.raise_stored (s : State) (x : Exc) : (s.raise x).stored = s.stored := rfl
@[simp] theorem State.raise_pendingStores (s : State) (x : Exc) : (s.raise x).pendingStores = s.pendingStores := rfl
@[simp] theorem State.raise_pendingLoads (s : State) (x : Exc) : (s.raise x).pendingLoads = s.pendingLoads := rfl
@[simp] theorem State.raise_inputs (s : State) (x : Exc) : (s.raise x).inputs = s.inputs := rfl

/-! ## stackFault -/

@[simp] theorem State.stackFault_regs (s : State) (o : Bool) : (s.stackFault o).regs = s.regs := rfl
@[simp] theorem State.stackFault_empty (s : State) (o : Bool) : (s.stackFault o).empty = s.empty := rfl
@[simp] theorem State.stackFault_cw (s : State) (o : Bool) : (s.stackFault o).cw = s.cw := rfl
@[simp] theorem State.stackFault_fip (s : State) (o : Bool) : (s.stackFault o).fip = s.fip := rfl
@[simp] theorem State.stackFault_fdp (s : State) (o : Bool) : (s.stackFault o).fdp = s.fdp := rfl
@[simp] theorem State.stackFault_fop (s : State) (o : Bool) : (s.stackFault o).fop = s.fop := rfl
@[simp] theorem State.stackFault_gpr (s : State) (o : Bool) : (s.stackFault o).gpr = s.gpr := rfl
@[simp] theorem State.stackFault_seg (s : State) (o : Bool) : (s.stackFault o).seg = s.seg := rfl
@[simp] theorem State.stackFault_eip (s : State) (o : Bool) : (s.stackFault o).eip = s.eip := rfl
@[simp] theorem State.stackFault_mode (s : State) (o : Bool) : (s.stackFault o).mode = s.mode := rfl
@[simp] theorem State.stackFault_cr0 (s : State) (o : Bool) : (s.stackFault o).cr0 = s.cr0 := rfl
@[simp] theorem State.stackFault_flags (s : State) (o : Bool) : (s.stackFault o).flags = s.flags := rfl
@[simp] theorem State.stackFault_gates (s : State) (o : Bool) : (s.stackFault o).gates = s.gates := rfl
@[simp] theorem State.stackFault_links (s : State) (o : Bool) : (s.stackFault o).links = s.links := rfl
@[simp] theorem State.stackFault_denied (s : State) (o : Bool) : (s.stackFault o).denied = s.denied := rfl
@[simp] theorem State.stackFault_mem (s : State) (o : Bool) : (s.stackFault o).mem = s.mem := rfl
@[simp] theorem State.stackFault_params (s : State) (o : Bool) : (s.stackFault o).params = s.params := rfl
@[simp] theorem State.stackFault_draws (s : State) (o : Bool) : (s.stackFault o).draws = s.draws := rfl
@[simp] theorem State.stackFault_overrun (s : State) (o : Bool) : (s.stackFault o).overrun = s.overrun := rfl
@[simp] theorem State.stackFault_stored (s : State) (o : Bool) : (s.stackFault o).stored = s.stored := rfl
@[simp] theorem State.stackFault_pendingStores (s : State) (o : Bool) :
    (s.stackFault o).pendingStores = s.pendingStores := rfl
@[simp] theorem State.stackFault_pendingLoads (s : State) (o : Bool) :
    (s.stackFault o).pendingLoads = s.pendingLoads := rfl
@[simp] theorem State.stackFault_inputs (s : State) (o : Bool) : (s.stackFault o).inputs = s.inputs := rfl

/-! ## drew -/

@[simp] theorem State.drew_regs (s : State) : (s.drew).regs = s.regs := rfl
@[simp] theorem State.drew_empty (s : State) : (s.drew).empty = s.empty := rfl
@[simp] theorem State.drew_sw (s : State) : (s.drew).sw = s.sw := rfl
@[simp] theorem State.drew_cw (s : State) : (s.drew).cw = s.cw := rfl
@[simp] theorem State.drew_fip (s : State) : (s.drew).fip = s.fip := rfl
@[simp] theorem State.drew_fdp (s : State) : (s.drew).fdp = s.fdp := rfl
@[simp] theorem State.drew_fop (s : State) : (s.drew).fop = s.fop := rfl
@[simp] theorem State.drew_gpr (s : State) : (s.drew).gpr = s.gpr := rfl
@[simp] theorem State.drew_seg (s : State) : (s.drew).seg = s.seg := rfl
@[simp] theorem State.drew_eip (s : State) : (s.drew).eip = s.eip := rfl
@[simp] theorem State.drew_mode (s : State) : (s.drew).mode = s.mode := rfl
@[simp] theorem State.drew_cr0 (s : State) : (s.drew).cr0 = s.cr0 := rfl
@[simp] theorem State.drew_flags (s : State) : (s.drew).flags = s.flags := rfl
@[simp] theorem State.drew_gates (s : State) : (s.drew).gates = s.gates := rfl
@[simp] theorem State.drew_links (s : State) : (s.drew).links = s.links := rfl
@[simp] theorem State.drew_denied (s : State) : (s.drew).denied = s.denied := rfl
@[simp] theorem State.drew_mem (s : State) : (s.drew).mem = s.mem := rfl
@[simp] theorem State.drew_params (s : State) : (s.drew).params = s.params := rfl
@[simp] theorem State.drew_draws (s : State) : (s.drew).draws = s.draws + 1 := rfl
@[simp] theorem State.drew_overrun (s : State) : (s.drew).overrun = s.overrun := rfl
@[simp] theorem State.drew_stored (s : State) : (s.drew).stored = s.stored := rfl
@[simp] theorem State.drew_pendingStores (s : State) : (s.drew).pendingStores = s.pendingStores := rfl
@[simp] theorem State.drew_pendingLoads (s : State) : (s.drew).pendingLoads = s.pendingLoads := rfl
@[simp] theorem State.drew_inputs (s : State) : (s.drew).inputs = s.inputs := rfl

/-! ## drawC320 -/

@[simp] theorem State.drawC320_regs (s : State) : (s.drawC320).regs = s.regs := rfl
@[simp] theorem State.drawC320_empty (s : State) : (s.drawC320).empty = s.empty := rfl
@[simp] theorem State.drawC320_cw (s : State) : (s.drawC320).cw = s.cw := rfl
@[simp] theorem State.drawC320_fip (s : State) : (s.drawC320).fip = s.fip := rfl
@[simp] theorem State.drawC320_fdp (s : State) : (s.drawC320).fdp = s.fdp := rfl
@[simp] theorem State.drawC320_fop (s : State) : (s.drawC320).fop = s.fop := rfl
@[simp] theorem State.drawC320_gpr (s : State) : (s.drawC320).gpr = s.gpr := rfl
@[simp] theorem State.drawC320_seg (s : State) : (s.drawC320).seg = s.seg := rfl
@[simp] theorem State.drawC320_eip (s : State) : (s.drawC320).eip = s.eip := rfl
@[simp] theorem State.drawC320_mode (s : State) : (s.drawC320).mode = s.mode := rfl
@[simp] theorem State.drawC320_cr0 (s : State) : (s.drawC320).cr0 = s.cr0 := rfl
@[simp] theorem State.drawC320_flags (s : State) : (s.drawC320).flags = s.flags := rfl
@[simp] theorem State.drawC320_gates (s : State) : (s.drawC320).gates = s.gates := rfl
@[simp] theorem State.drawC320_links (s : State) : (s.drawC320).links = s.links := rfl
@[simp] theorem State.drawC320_denied (s : State) : (s.drawC320).denied = s.denied := rfl
@[simp] theorem State.drawC320_mem (s : State) : (s.drawC320).mem = s.mem := rfl
@[simp] theorem State.drawC320_params (s : State) : (s.drawC320).params = s.params := rfl
@[simp] theorem State.drawC320_draws (s : State) : (s.drawC320).draws = s.draws + 1 := rfl
@[simp] theorem State.drawC320_overrun (s : State) : (s.drawC320).overrun = s.overrun := rfl
@[simp] theorem State.drawC320_stored (s : State) : (s.drawC320).stored = s.stored := rfl
@[simp] theorem State.drawC320_pendingStores (s : State) : (s.drawC320).pendingStores = s.pendingStores := rfl
@[simp] theorem State.drawC320_pendingLoads (s : State) : (s.drawC320).pendingLoads = s.pendingLoads := rfl
@[simp] theorem State.drawC320_inputs (s : State) : (s.drawC320).inputs = s.inputs := rfl

/-! ## drawC320ClearC1 -/

@[simp] theorem State.drawC320ClearC1_regs (s : State) : (s.drawC320ClearC1).regs = s.regs := rfl
@[simp] theorem State.drawC320ClearC1_empty (s : State) : (s.drawC320ClearC1).empty = s.empty := rfl
@[simp] theorem State.drawC320ClearC1_cw (s : State) : (s.drawC320ClearC1).cw = s.cw := rfl
@[simp] theorem State.drawC320ClearC1_fip (s : State) : (s.drawC320ClearC1).fip = s.fip := rfl
@[simp] theorem State.drawC320ClearC1_fdp (s : State) : (s.drawC320ClearC1).fdp = s.fdp := rfl
@[simp] theorem State.drawC320ClearC1_fop (s : State) : (s.drawC320ClearC1).fop = s.fop := rfl
@[simp] theorem State.drawC320ClearC1_gpr (s : State) : (s.drawC320ClearC1).gpr = s.gpr := rfl
@[simp] theorem State.drawC320ClearC1_seg (s : State) : (s.drawC320ClearC1).seg = s.seg := rfl
@[simp] theorem State.drawC320ClearC1_eip (s : State) : (s.drawC320ClearC1).eip = s.eip := rfl
@[simp] theorem State.drawC320ClearC1_mode (s : State) : (s.drawC320ClearC1).mode = s.mode := rfl
@[simp] theorem State.drawC320ClearC1_cr0 (s : State) : (s.drawC320ClearC1).cr0 = s.cr0 := rfl
@[simp] theorem State.drawC320ClearC1_flags (s : State) : (s.drawC320ClearC1).flags = s.flags := rfl
@[simp] theorem State.drawC320ClearC1_gates (s : State) : (s.drawC320ClearC1).gates = s.gates := rfl
@[simp] theorem State.drawC320ClearC1_links (s : State) : (s.drawC320ClearC1).links = s.links := rfl
@[simp] theorem State.drawC320ClearC1_denied (s : State) : (s.drawC320ClearC1).denied = s.denied := rfl
@[simp] theorem State.drawC320ClearC1_mem (s : State) : (s.drawC320ClearC1).mem = s.mem := rfl
@[simp] theorem State.drawC320ClearC1_params (s : State) : (s.drawC320ClearC1).params = s.params := rfl
@[simp] theorem State.drawC320ClearC1_draws (s : State) : (s.drawC320ClearC1).draws = s.draws + 1 := rfl
@[simp] theorem State.drawC320ClearC1_overrun (s : State) : (s.drawC320ClearC1).overrun = s.overrun := rfl
@[simp] theorem State.drawC320ClearC1_stored (s : State) : (s.drawC320ClearC1).stored = s.stored := rfl
@[simp] theorem State.drawC320ClearC1_pendingStores (s : State) :
    (s.drawC320ClearC1).pendingStores = s.pendingStores := rfl
@[simp] theorem State.drawC320ClearC1_pendingLoads (s : State) :
    (s.drawC320ClearC1).pendingLoads = s.pendingLoads := rfl
@[simp] theorem State.drawC320ClearC1_inputs (s : State) : (s.drawC320ClearC1).inputs = s.inputs := rfl

/-! ## drawC30 -/

@[simp] theorem State.drawC30_regs (s : State) : (s.drawC30).regs = s.regs := rfl
@[simp] theorem State.drawC30_empty (s : State) : (s.drawC30).empty = s.empty := rfl
@[simp] theorem State.drawC30_cw (s : State) : (s.drawC30).cw = s.cw := rfl
@[simp] theorem State.drawC30_fip (s : State) : (s.drawC30).fip = s.fip := rfl
@[simp] theorem State.drawC30_fdp (s : State) : (s.drawC30).fdp = s.fdp := rfl
@[simp] theorem State.drawC30_fop (s : State) : (s.drawC30).fop = s.fop := rfl
@[simp] theorem State.drawC30_gpr (s : State) : (s.drawC30).gpr = s.gpr := rfl
@[simp] theorem State.drawC30_seg (s : State) : (s.drawC30).seg = s.seg := rfl
@[simp] theorem State.drawC30_eip (s : State) : (s.drawC30).eip = s.eip := rfl
@[simp] theorem State.drawC30_mode (s : State) : (s.drawC30).mode = s.mode := rfl
@[simp] theorem State.drawC30_cr0 (s : State) : (s.drawC30).cr0 = s.cr0 := rfl
@[simp] theorem State.drawC30_flags (s : State) : (s.drawC30).flags = s.flags := rfl
@[simp] theorem State.drawC30_gates (s : State) : (s.drawC30).gates = s.gates := rfl
@[simp] theorem State.drawC30_links (s : State) : (s.drawC30).links = s.links := rfl
@[simp] theorem State.drawC30_denied (s : State) : (s.drawC30).denied = s.denied := rfl
@[simp] theorem State.drawC30_mem (s : State) : (s.drawC30).mem = s.mem := rfl
@[simp] theorem State.drawC30_params (s : State) : (s.drawC30).params = s.params := rfl
@[simp] theorem State.drawC30_draws (s : State) : (s.drawC30).draws = s.draws + 1 := rfl
@[simp] theorem State.drawC30_overrun (s : State) : (s.drawC30).overrun = s.overrun := rfl
@[simp] theorem State.drawC30_stored (s : State) : (s.drawC30).stored = s.stored := rfl
@[simp] theorem State.drawC30_pendingStores (s : State) : (s.drawC30).pendingStores = s.pendingStores := rfl
@[simp] theorem State.drawC30_pendingLoads (s : State) : (s.drawC30).pendingLoads = s.pendingLoads := rfl
@[simp] theorem State.drawC30_inputs (s : State) : (s.drawC30).inputs = s.inputs := rfl

/-! ## drawC2 -/

@[simp] theorem State.drawC2_regs (s : State) : (s.drawC2).regs = s.regs := rfl
@[simp] theorem State.drawC2_empty (s : State) : (s.drawC2).empty = s.empty := rfl
@[simp] theorem State.drawC2_cw (s : State) : (s.drawC2).cw = s.cw := rfl
@[simp] theorem State.drawC2_fip (s : State) : (s.drawC2).fip = s.fip := rfl
@[simp] theorem State.drawC2_fdp (s : State) : (s.drawC2).fdp = s.fdp := rfl
@[simp] theorem State.drawC2_fop (s : State) : (s.drawC2).fop = s.fop := rfl
@[simp] theorem State.drawC2_gpr (s : State) : (s.drawC2).gpr = s.gpr := rfl
@[simp] theorem State.drawC2_seg (s : State) : (s.drawC2).seg = s.seg := rfl
@[simp] theorem State.drawC2_eip (s : State) : (s.drawC2).eip = s.eip := rfl
@[simp] theorem State.drawC2_mode (s : State) : (s.drawC2).mode = s.mode := rfl
@[simp] theorem State.drawC2_cr0 (s : State) : (s.drawC2).cr0 = s.cr0 := rfl
@[simp] theorem State.drawC2_flags (s : State) : (s.drawC2).flags = s.flags := rfl
@[simp] theorem State.drawC2_gates (s : State) : (s.drawC2).gates = s.gates := rfl
@[simp] theorem State.drawC2_links (s : State) : (s.drawC2).links = s.links := rfl
@[simp] theorem State.drawC2_denied (s : State) : (s.drawC2).denied = s.denied := rfl
@[simp] theorem State.drawC2_mem (s : State) : (s.drawC2).mem = s.mem := rfl
@[simp] theorem State.drawC2_params (s : State) : (s.drawC2).params = s.params := rfl
@[simp] theorem State.drawC2_draws (s : State) : (s.drawC2).draws = s.draws + 1 := rfl
@[simp] theorem State.drawC2_overrun (s : State) : (s.drawC2).overrun = s.overrun := rfl
@[simp] theorem State.drawC2_stored (s : State) : (s.drawC2).stored = s.stored := rfl
@[simp] theorem State.drawC2_pendingStores (s : State) : (s.drawC2).pendingStores = s.pendingStores := rfl
@[simp] theorem State.drawC2_pendingLoads (s : State) : (s.drawC2).pendingLoads = s.pendingLoads := rfl
@[simp] theorem State.drawC2_inputs (s : State) : (s.drawC2).inputs = s.inputs := rfl

/-! ## drawC1 -/

@[simp] theorem State.drawC1_regs (s : State) : (s.drawC1).regs = s.regs := rfl
@[simp] theorem State.drawC1_empty (s : State) : (s.drawC1).empty = s.empty := rfl
@[simp] theorem State.drawC1_cw (s : State) : (s.drawC1).cw = s.cw := rfl
@[simp] theorem State.drawC1_fip (s : State) : (s.drawC1).fip = s.fip := rfl
@[simp] theorem State.drawC1_fdp (s : State) : (s.drawC1).fdp = s.fdp := rfl
@[simp] theorem State.drawC1_fop (s : State) : (s.drawC1).fop = s.fop := rfl
@[simp] theorem State.drawC1_gpr (s : State) : (s.drawC1).gpr = s.gpr := rfl
@[simp] theorem State.drawC1_seg (s : State) : (s.drawC1).seg = s.seg := rfl
@[simp] theorem State.drawC1_eip (s : State) : (s.drawC1).eip = s.eip := rfl
@[simp] theorem State.drawC1_mode (s : State) : (s.drawC1).mode = s.mode := rfl
@[simp] theorem State.drawC1_cr0 (s : State) : (s.drawC1).cr0 = s.cr0 := rfl
@[simp] theorem State.drawC1_flags (s : State) : (s.drawC1).flags = s.flags := rfl
@[simp] theorem State.drawC1_gates (s : State) : (s.drawC1).gates = s.gates := rfl
@[simp] theorem State.drawC1_links (s : State) : (s.drawC1).links = s.links := rfl
@[simp] theorem State.drawC1_denied (s : State) : (s.drawC1).denied = s.denied := rfl
@[simp] theorem State.drawC1_mem (s : State) : (s.drawC1).mem = s.mem := rfl
@[simp] theorem State.drawC1_params (s : State) : (s.drawC1).params = s.params := rfl
@[simp] theorem State.drawC1_draws (s : State) : (s.drawC1).draws = s.draws + 1 := rfl
@[simp] theorem State.drawC1_overrun (s : State) : (s.drawC1).overrun = s.overrun := rfl
@[simp] theorem State.drawC1_stored (s : State) : (s.drawC1).stored = s.stored := rfl
@[simp] theorem State.drawC1_pendingStores (s : State) : (s.drawC1).pendingStores = s.pendingStores := rfl
@[simp] theorem State.drawC1_pendingLoads (s : State) : (s.drawC1).pendingLoads = s.pendingLoads := rfl
@[simp] theorem State.drawC1_inputs (s : State) : (s.drawC1).inputs = s.inputs := rfl

/-! ## drawC3210 -/

@[simp] theorem State.drawC3210_regs (s : State) : (s.drawC3210).regs = s.regs := rfl
@[simp] theorem State.drawC3210_empty (s : State) : (s.drawC3210).empty = s.empty := rfl
@[simp] theorem State.drawC3210_cw (s : State) : (s.drawC3210).cw = s.cw := rfl
@[simp] theorem State.drawC3210_fip (s : State) : (s.drawC3210).fip = s.fip := rfl
@[simp] theorem State.drawC3210_fdp (s : State) : (s.drawC3210).fdp = s.fdp := rfl
@[simp] theorem State.drawC3210_fop (s : State) : (s.drawC3210).fop = s.fop := rfl
@[simp] theorem State.drawC3210_gpr (s : State) : (s.drawC3210).gpr = s.gpr := rfl
@[simp] theorem State.drawC3210_seg (s : State) : (s.drawC3210).seg = s.seg := rfl
@[simp] theorem State.drawC3210_eip (s : State) : (s.drawC3210).eip = s.eip := rfl
@[simp] theorem State.drawC3210_mode (s : State) : (s.drawC3210).mode = s.mode := rfl
@[simp] theorem State.drawC3210_cr0 (s : State) : (s.drawC3210).cr0 = s.cr0 := rfl
@[simp] theorem State.drawC3210_flags (s : State) : (s.drawC3210).flags = s.flags := rfl
@[simp] theorem State.drawC3210_gates (s : State) : (s.drawC3210).gates = s.gates := rfl
@[simp] theorem State.drawC3210_links (s : State) : (s.drawC3210).links = s.links := rfl
@[simp] theorem State.drawC3210_denied (s : State) : (s.drawC3210).denied = s.denied := rfl
@[simp] theorem State.drawC3210_mem (s : State) : (s.drawC3210).mem = s.mem := rfl
@[simp] theorem State.drawC3210_params (s : State) : (s.drawC3210).params = s.params := rfl
@[simp] theorem State.drawC3210_draws (s : State) : (s.drawC3210).draws = s.draws + 1 := rfl
@[simp] theorem State.drawC3210_overrun (s : State) : (s.drawC3210).overrun = s.overrun := rfl
@[simp] theorem State.drawC3210_stored (s : State) : (s.drawC3210).stored = s.stored := rfl
@[simp] theorem State.drawC3210_pendingStores (s : State) : (s.drawC3210).pendingStores = s.pendingStores := rfl
@[simp] theorem State.drawC3210_pendingLoads (s : State) : (s.drawC3210).pendingLoads = s.pendingLoads := rfl
@[simp] theorem State.drawC3210_inputs (s : State) : (s.drawC3210).inputs = s.inputs := rfl

/-! ## drawPe -/

@[simp] theorem State.drawPe_regs (s : State) : (s.drawPe).regs = s.regs := rfl
@[simp] theorem State.drawPe_empty (s : State) : (s.drawPe).empty = s.empty := rfl
@[simp] theorem State.drawPe_cw (s : State) : (s.drawPe).cw = s.cw := rfl
@[simp] theorem State.drawPe_fip (s : State) : (s.drawPe).fip = s.fip := rfl
@[simp] theorem State.drawPe_fdp (s : State) : (s.drawPe).fdp = s.fdp := rfl
@[simp] theorem State.drawPe_fop (s : State) : (s.drawPe).fop = s.fop := rfl
@[simp] theorem State.drawPe_gpr (s : State) : (s.drawPe).gpr = s.gpr := rfl
@[simp] theorem State.drawPe_seg (s : State) : (s.drawPe).seg = s.seg := rfl
@[simp] theorem State.drawPe_eip (s : State) : (s.drawPe).eip = s.eip := rfl
@[simp] theorem State.drawPe_mode (s : State) : (s.drawPe).mode = s.mode := rfl
@[simp] theorem State.drawPe_cr0 (s : State) : (s.drawPe).cr0 = s.cr0 := rfl
@[simp] theorem State.drawPe_flags (s : State) : (s.drawPe).flags = s.flags := rfl
@[simp] theorem State.drawPe_gates (s : State) : (s.drawPe).gates = s.gates := rfl
@[simp] theorem State.drawPe_links (s : State) : (s.drawPe).links = s.links := rfl
@[simp] theorem State.drawPe_denied (s : State) : (s.drawPe).denied = s.denied := rfl
@[simp] theorem State.drawPe_mem (s : State) : (s.drawPe).mem = s.mem := rfl
@[simp] theorem State.drawPe_params (s : State) : (s.drawPe).params = s.params := rfl
@[simp] theorem State.drawPe_draws (s : State) : (s.drawPe).draws = s.draws + 1 := rfl
@[simp] theorem State.drawPe_overrun (s : State) : (s.drawPe).overrun = s.overrun := rfl
@[simp] theorem State.drawPe_stored (s : State) : (s.drawPe).stored = s.stored := rfl
@[simp] theorem State.drawPe_pendingStores (s : State) : (s.drawPe).pendingStores = s.pendingStores := rfl
@[simp] theorem State.drawPe_pendingLoads (s : State) : (s.drawPe).pendingLoads = s.pendingLoads := rfl
@[simp] theorem State.drawPe_inputs (s : State) : (s.drawPe).inputs = s.inputs := rfl

/-! ## putReg -/

@[simp] theorem State.putReg_regs (s : State) (k : Fin 8) (v : Ext) : (s.putReg k v).regs = s.regs.set k v := rfl
@[simp] theorem State.putReg_empty (s : State) (k : Fin 8) (v : Ext) :
    (s.putReg k v).empty = s.empty.set k false := rfl
@[simp] theorem State.putReg_sw (s : State) (k : Fin 8) (v : Ext) : (s.putReg k v).sw = s.sw := rfl
@[simp] theorem State.putReg_cw (s : State) (k : Fin 8) (v : Ext) : (s.putReg k v).cw = s.cw := rfl
@[simp] theorem State.putReg_fip (s : State) (k : Fin 8) (v : Ext) : (s.putReg k v).fip = s.fip := rfl
@[simp] theorem State.putReg_fdp (s : State) (k : Fin 8) (v : Ext) : (s.putReg k v).fdp = s.fdp := rfl
@[simp] theorem State.putReg_fop (s : State) (k : Fin 8) (v : Ext) : (s.putReg k v).fop = s.fop := rfl
@[simp] theorem State.putReg_gpr (s : State) (k : Fin 8) (v : Ext) : (s.putReg k v).gpr = s.gpr := rfl
@[simp] theorem State.putReg_seg (s : State) (k : Fin 8) (v : Ext) : (s.putReg k v).seg = s.seg := rfl
@[simp] theorem State.putReg_eip (s : State) (k : Fin 8) (v : Ext) : (s.putReg k v).eip = s.eip := rfl
@[simp] theorem State.putReg_mode (s : State) (k : Fin 8) (v : Ext) : (s.putReg k v).mode = s.mode := rfl
@[simp] theorem State.putReg_cr0 (s : State) (k : Fin 8) (v : Ext) : (s.putReg k v).cr0 = s.cr0 := rfl
@[simp] theorem State.putReg_flags (s : State) (k : Fin 8) (v : Ext) : (s.putReg k v).flags = s.flags := rfl
@[simp] theorem State.putReg_gates (s : State) (k : Fin 8) (v : Ext) : (s.putReg k v).gates = s.gates := rfl
@[simp] theorem State.putReg_links (s : State) (k : Fin 8) (v : Ext) : (s.putReg k v).links = s.links := rfl
@[simp] theorem State.putReg_denied (s : State) (k : Fin 8) (v : Ext) : (s.putReg k v).denied = s.denied := rfl
@[simp] theorem State.putReg_mem (s : State) (k : Fin 8) (v : Ext) : (s.putReg k v).mem = s.mem := rfl
@[simp] theorem State.putReg_params (s : State) (k : Fin 8) (v : Ext) : (s.putReg k v).params = s.params := rfl
@[simp] theorem State.putReg_draws (s : State) (k : Fin 8) (v : Ext) : (s.putReg k v).draws = s.draws := rfl
@[simp] theorem State.putReg_overrun (s : State) (k : Fin 8) (v : Ext) : (s.putReg k v).overrun = s.overrun := rfl
@[simp] theorem State.putReg_stored (s : State) (k : Fin 8) (v : Ext) : (s.putReg k v).stored = s.stored := rfl
@[simp] theorem State.putReg_pendingStores (s : State) (k : Fin 8) (v : Ext) :
    (s.putReg k v).pendingStores = s.pendingStores := rfl
@[simp] theorem State.putReg_pendingLoads (s : State) (k : Fin 8) (v : Ext) :
    (s.putReg k v).pendingLoads = s.pendingLoads := rfl
@[simp] theorem State.putReg_inputs (s : State) (k : Fin 8) (v : Ext) : (s.putReg k v).inputs = s.inputs := rfl

/-! ## putSt -/

@[simp] theorem State.putSt_regs (s : State) (i : Fin 8) (v : Ext) :
    (s.putSt i v).regs = s.regs.set (s.phys i) v := rfl
@[simp] theorem State.putSt_empty (s : State) (i : Fin 8) (v : Ext) :
    (s.putSt i v).empty = s.empty.set (s.phys i) false := rfl
@[simp] theorem State.putSt_sw (s : State) (i : Fin 8) (v : Ext) : (s.putSt i v).sw = s.sw := rfl
@[simp] theorem State.putSt_cw (s : State) (i : Fin 8) (v : Ext) : (s.putSt i v).cw = s.cw := rfl
@[simp] theorem State.putSt_fip (s : State) (i : Fin 8) (v : Ext) : (s.putSt i v).fip = s.fip := rfl
@[simp] theorem State.putSt_fdp (s : State) (i : Fin 8) (v : Ext) : (s.putSt i v).fdp = s.fdp := rfl
@[simp] theorem State.putSt_fop (s : State) (i : Fin 8) (v : Ext) : (s.putSt i v).fop = s.fop := rfl
@[simp] theorem State.putSt_gpr (s : State) (i : Fin 8) (v : Ext) : (s.putSt i v).gpr = s.gpr := rfl
@[simp] theorem State.putSt_seg (s : State) (i : Fin 8) (v : Ext) : (s.putSt i v).seg = s.seg := rfl
@[simp] theorem State.putSt_eip (s : State) (i : Fin 8) (v : Ext) : (s.putSt i v).eip = s.eip := rfl
@[simp] theorem State.putSt_mode (s : State) (i : Fin 8) (v : Ext) : (s.putSt i v).mode = s.mode := rfl
@[simp] theorem State.putSt_cr0 (s : State) (i : Fin 8) (v : Ext) : (s.putSt i v).cr0 = s.cr0 := rfl
@[simp] theorem State.putSt_flags (s : State) (i : Fin 8) (v : Ext) : (s.putSt i v).flags = s.flags := rfl
@[simp] theorem State.putSt_gates (s : State) (i : Fin 8) (v : Ext) : (s.putSt i v).gates = s.gates := rfl
@[simp] theorem State.putSt_links (s : State) (i : Fin 8) (v : Ext) : (s.putSt i v).links = s.links := rfl
@[simp] theorem State.putSt_denied (s : State) (i : Fin 8) (v : Ext) : (s.putSt i v).denied = s.denied := rfl
@[simp] theorem State.putSt_mem (s : State) (i : Fin 8) (v : Ext) : (s.putSt i v).mem = s.mem := rfl
@[simp] theorem State.putSt_params (s : State) (i : Fin 8) (v : Ext) : (s.putSt i v).params = s.params := rfl
@[simp] theorem State.putSt_draws (s : State) (i : Fin 8) (v : Ext) : (s.putSt i v).draws = s.draws := rfl
@[simp] theorem State.putSt_overrun (s : State) (i : Fin 8) (v : Ext) : (s.putSt i v).overrun = s.overrun := rfl
@[simp] theorem State.putSt_stored (s : State) (i : Fin 8) (v : Ext) : (s.putSt i v).stored = s.stored := rfl
@[simp] theorem State.putSt_pendingStores (s : State) (i : Fin 8) (v : Ext) :
    (s.putSt i v).pendingStores = s.pendingStores := rfl
@[simp] theorem State.putSt_pendingLoads (s : State) (i : Fin 8) (v : Ext) :
    (s.putSt i v).pendingLoads = s.pendingLoads := rfl
@[simp] theorem State.putSt_inputs (s : State) (i : Fin 8) (v : Ext) : (s.putSt i v).inputs = s.inputs := rfl

/-! ## freeReg -/

@[simp] theorem State.freeReg_regs (s : State) (k : Fin 8) : (s.freeReg k).regs = s.regs := rfl
@[simp] theorem State.freeReg_empty (s : State) (k : Fin 8) : (s.freeReg k).empty = s.empty.set k true := rfl
@[simp] theorem State.freeReg_sw (s : State) (k : Fin 8) : (s.freeReg k).sw = s.sw := rfl
@[simp] theorem State.freeReg_cw (s : State) (k : Fin 8) : (s.freeReg k).cw = s.cw := rfl
@[simp] theorem State.freeReg_fip (s : State) (k : Fin 8) : (s.freeReg k).fip = s.fip := rfl
@[simp] theorem State.freeReg_fdp (s : State) (k : Fin 8) : (s.freeReg k).fdp = s.fdp := rfl
@[simp] theorem State.freeReg_fop (s : State) (k : Fin 8) : (s.freeReg k).fop = s.fop := rfl
@[simp] theorem State.freeReg_gpr (s : State) (k : Fin 8) : (s.freeReg k).gpr = s.gpr := rfl
@[simp] theorem State.freeReg_seg (s : State) (k : Fin 8) : (s.freeReg k).seg = s.seg := rfl
@[simp] theorem State.freeReg_eip (s : State) (k : Fin 8) : (s.freeReg k).eip = s.eip := rfl
@[simp] theorem State.freeReg_mode (s : State) (k : Fin 8) : (s.freeReg k).mode = s.mode := rfl
@[simp] theorem State.freeReg_cr0 (s : State) (k : Fin 8) : (s.freeReg k).cr0 = s.cr0 := rfl
@[simp] theorem State.freeReg_flags (s : State) (k : Fin 8) : (s.freeReg k).flags = s.flags := rfl
@[simp] theorem State.freeReg_gates (s : State) (k : Fin 8) : (s.freeReg k).gates = s.gates := rfl
@[simp] theorem State.freeReg_links (s : State) (k : Fin 8) : (s.freeReg k).links = s.links := rfl
@[simp] theorem State.freeReg_denied (s : State) (k : Fin 8) : (s.freeReg k).denied = s.denied := rfl
@[simp] theorem State.freeReg_mem (s : State) (k : Fin 8) : (s.freeReg k).mem = s.mem := rfl
@[simp] theorem State.freeReg_params (s : State) (k : Fin 8) : (s.freeReg k).params = s.params := rfl
@[simp] theorem State.freeReg_draws (s : State) (k : Fin 8) : (s.freeReg k).draws = s.draws := rfl
@[simp] theorem State.freeReg_overrun (s : State) (k : Fin 8) : (s.freeReg k).overrun = s.overrun := rfl
@[simp] theorem State.freeReg_stored (s : State) (k : Fin 8) : (s.freeReg k).stored = s.stored := rfl
@[simp] theorem State.freeReg_pendingStores (s : State) (k : Fin 8) :
    (s.freeReg k).pendingStores = s.pendingStores := rfl
@[simp] theorem State.freeReg_pendingLoads (s : State) (k : Fin 8) :
    (s.freeReg k).pendingLoads = s.pendingLoads := rfl
@[simp] theorem State.freeReg_inputs (s : State) (k : Fin 8) : (s.freeReg k).inputs = s.inputs := rfl

/-! ## push -/

@[simp] theorem State.push_regs (s : State) (v : Ext) :
    (s.push v).regs = s.regs.set (s.sw.top - 1 : Fin 8).val v := rfl
@[simp] theorem State.push_empty (s : State) (v : Ext) :
    (s.push v).empty = s.empty.set (s.sw.top - 1 : Fin 8).val false := rfl
@[simp] theorem State.push_sw (s : State) (v : Ext) : (s.push v).sw = { s.sw with top := s.sw.top - 1 } := rfl
@[simp] theorem State.push_cw (s : State) (v : Ext) : (s.push v).cw = s.cw := rfl
@[simp] theorem State.push_fip (s : State) (v : Ext) : (s.push v).fip = s.fip := rfl
@[simp] theorem State.push_fdp (s : State) (v : Ext) : (s.push v).fdp = s.fdp := rfl
@[simp] theorem State.push_fop (s : State) (v : Ext) : (s.push v).fop = s.fop := rfl
@[simp] theorem State.push_gpr (s : State) (v : Ext) : (s.push v).gpr = s.gpr := rfl
@[simp] theorem State.push_seg (s : State) (v : Ext) : (s.push v).seg = s.seg := rfl
@[simp] theorem State.push_eip (s : State) (v : Ext) : (s.push v).eip = s.eip := rfl
@[simp] theorem State.push_mode (s : State) (v : Ext) : (s.push v).mode = s.mode := rfl
@[simp] theorem State.push_cr0 (s : State) (v : Ext) : (s.push v).cr0 = s.cr0 := rfl
@[simp] theorem State.push_flags (s : State) (v : Ext) : (s.push v).flags = s.flags := rfl
@[simp] theorem State.push_gates (s : State) (v : Ext) : (s.push v).gates = s.gates := rfl
@[simp] theorem State.push_links (s : State) (v : Ext) : (s.push v).links = s.links := rfl
@[simp] theorem State.push_denied (s : State) (v : Ext) : (s.push v).denied = s.denied := rfl
@[simp] theorem State.push_mem (s : State) (v : Ext) : (s.push v).mem = s.mem := rfl
@[simp] theorem State.push_params (s : State) (v : Ext) : (s.push v).params = s.params := rfl
@[simp] theorem State.push_draws (s : State) (v : Ext) : (s.push v).draws = s.draws := rfl
@[simp] theorem State.push_overrun (s : State) (v : Ext) : (s.push v).overrun = s.overrun := rfl
@[simp] theorem State.push_stored (s : State) (v : Ext) : (s.push v).stored = s.stored := rfl
@[simp] theorem State.push_pendingStores (s : State) (v : Ext) : (s.push v).pendingStores = s.pendingStores := rfl
@[simp] theorem State.push_pendingLoads (s : State) (v : Ext) : (s.push v).pendingLoads = s.pendingLoads := rfl
@[simp] theorem State.push_inputs (s : State) (v : Ext) : (s.push v).inputs = s.inputs := rfl

/-! ## pop -/

@[simp] theorem State.pop_regs (s : State) : (s.pop).regs = s.regs := rfl
@[simp] theorem State.pop_empty (s : State) : (s.pop).empty = s.empty.set s.sw.top true := rfl
@[simp] theorem State.pop_sw (s : State) : (s.pop).sw = { s.sw with top := s.sw.top + 1 } := rfl
@[simp] theorem State.pop_cw (s : State) : (s.pop).cw = s.cw := rfl
@[simp] theorem State.pop_fip (s : State) : (s.pop).fip = s.fip := rfl
@[simp] theorem State.pop_fdp (s : State) : (s.pop).fdp = s.fdp := rfl
@[simp] theorem State.pop_fop (s : State) : (s.pop).fop = s.fop := rfl
@[simp] theorem State.pop_gpr (s : State) : (s.pop).gpr = s.gpr := rfl
@[simp] theorem State.pop_seg (s : State) : (s.pop).seg = s.seg := rfl
@[simp] theorem State.pop_eip (s : State) : (s.pop).eip = s.eip := rfl
@[simp] theorem State.pop_mode (s : State) : (s.pop).mode = s.mode := rfl
@[simp] theorem State.pop_cr0 (s : State) : (s.pop).cr0 = s.cr0 := rfl
@[simp] theorem State.pop_flags (s : State) : (s.pop).flags = s.flags := rfl
@[simp] theorem State.pop_gates (s : State) : (s.pop).gates = s.gates := rfl
@[simp] theorem State.pop_links (s : State) : (s.pop).links = s.links := rfl
@[simp] theorem State.pop_denied (s : State) : (s.pop).denied = s.denied := rfl
@[simp] theorem State.pop_mem (s : State) : (s.pop).mem = s.mem := rfl
@[simp] theorem State.pop_params (s : State) : (s.pop).params = s.params := rfl
@[simp] theorem State.pop_draws (s : State) : (s.pop).draws = s.draws := rfl
@[simp] theorem State.pop_overrun (s : State) : (s.pop).overrun = s.overrun := rfl
@[simp] theorem State.pop_stored (s : State) : (s.pop).stored = s.stored := rfl
@[simp] theorem State.pop_pendingStores (s : State) : (s.pop).pendingStores = s.pendingStores := rfl
@[simp] theorem State.pop_pendingLoads (s : State) : (s.pop).pendingLoads = s.pendingLoads := rfl
@[simp] theorem State.pop_inputs (s : State) : (s.pop).inputs = s.inputs := rfl

/-! ## putExact -/

@[simp] theorem State.putExact_regs (s : State) (k : Fin 8) (v : Ext) : (s.putExact k v).regs = s.regs.set k v := rfl
@[simp] theorem State.putExact_empty (s : State) (k : Fin 8) (v : Ext) :
    (s.putExact k v).empty = s.empty.set k false := rfl
@[simp] theorem State.putExact_sw (s : State) (k : Fin 8) (v : Ext) :
    (s.putExact k v).sw = { s.sw with c1 := false } := rfl
@[simp] theorem State.putExact_cw (s : State) (k : Fin 8) (v : Ext) : (s.putExact k v).cw = s.cw := rfl
@[simp] theorem State.putExact_fip (s : State) (k : Fin 8) (v : Ext) : (s.putExact k v).fip = s.fip := rfl
@[simp] theorem State.putExact_fdp (s : State) (k : Fin 8) (v : Ext) : (s.putExact k v).fdp = s.fdp := rfl
@[simp] theorem State.putExact_fop (s : State) (k : Fin 8) (v : Ext) : (s.putExact k v).fop = s.fop := rfl
@[simp] theorem State.putExact_gpr (s : State) (k : Fin 8) (v : Ext) : (s.putExact k v).gpr = s.gpr := rfl
@[simp] theorem State.putExact_seg (s : State) (k : Fin 8) (v : Ext) : (s.putExact k v).seg = s.seg := rfl
@[simp] theorem State.putExact_eip (s : State) (k : Fin 8) (v : Ext) : (s.putExact k v).eip = s.eip := rfl
@[simp] theorem State.putExact_mode (s : State) (k : Fin 8) (v : Ext) : (s.putExact k v).mode = s.mode := rfl
@[simp] theorem State.putExact_cr0 (s : State) (k : Fin 8) (v : Ext) : (s.putExact k v).cr0 = s.cr0 := rfl
@[simp] theorem State.putExact_flags (s : State) (k : Fin 8) (v : Ext) : (s.putExact k v).flags = s.flags := rfl
@[simp] theorem State.putExact_gates (s : State) (k : Fin 8) (v : Ext) : (s.putExact k v).gates = s.gates := rfl
@[simp] theorem State.putExact_links (s : State) (k : Fin 8) (v : Ext) : (s.putExact k v).links = s.links := rfl
@[simp] theorem State.putExact_denied (s : State) (k : Fin 8) (v : Ext) : (s.putExact k v).denied = s.denied := rfl
@[simp] theorem State.putExact_mem (s : State) (k : Fin 8) (v : Ext) : (s.putExact k v).mem = s.mem := rfl
@[simp] theorem State.putExact_params (s : State) (k : Fin 8) (v : Ext) : (s.putExact k v).params = s.params := rfl
@[simp] theorem State.putExact_draws (s : State) (k : Fin 8) (v : Ext) : (s.putExact k v).draws = s.draws := rfl
@[simp] theorem State.putExact_overrun (s : State) (k : Fin 8) (v : Ext) : (s.putExact k v).overrun = s.overrun := rfl
@[simp] theorem State.putExact_stored (s : State) (k : Fin 8) (v : Ext) : (s.putExact k v).stored = s.stored := rfl
@[simp] theorem State.putExact_pendingStores (s : State) (k : Fin 8) (v : Ext) :
    (s.putExact k v).pendingStores = s.pendingStores := rfl
@[simp] theorem State.putExact_pendingLoads (s : State) (k : Fin 8) (v : Ext) :
    (s.putExact k v).pendingLoads = s.pendingLoads := rfl
@[simp] theorem State.putExact_inputs (s : State) (k : Fin 8) (v : Ext) : (s.putExact k v).inputs = s.inputs := rfl

/-! ## setAx -/

@[simp] theorem State.setAx_regs (s : State) (v : Word16) : (s.setAx v).regs = s.regs := rfl
@[simp] theorem State.setAx_empty (s : State) (v : Word16) : (s.setAx v).empty = s.empty := rfl
@[simp] theorem State.setAx_sw (s : State) (v : Word16) : (s.setAx v).sw = s.sw := rfl
@[simp] theorem State.setAx_cw (s : State) (v : Word16) : (s.setAx v).cw = s.cw := rfl
@[simp] theorem State.setAx_fip (s : State) (v : Word16) : (s.setAx v).fip = s.fip := rfl
@[simp] theorem State.setAx_fdp (s : State) (v : Word16) : (s.setAx v).fdp = s.fdp := rfl
@[simp] theorem State.setAx_fop (s : State) (v : Word16) : (s.setAx v).fop = s.fop := rfl
@[simp] theorem State.setAx_gpr (s : State) (v : Word16) :
    (s.setAx v).gpr = { s.gpr with eax := s.gpr.eax.extractLsb' 16 16 ++ v } := rfl
@[simp] theorem State.setAx_seg (s : State) (v : Word16) : (s.setAx v).seg = s.seg := rfl
@[simp] theorem State.setAx_eip (s : State) (v : Word16) : (s.setAx v).eip = s.eip := rfl
@[simp] theorem State.setAx_mode (s : State) (v : Word16) : (s.setAx v).mode = s.mode := rfl
@[simp] theorem State.setAx_cr0 (s : State) (v : Word16) : (s.setAx v).cr0 = s.cr0 := rfl
@[simp] theorem State.setAx_flags (s : State) (v : Word16) : (s.setAx v).flags = s.flags := rfl
@[simp] theorem State.setAx_gates (s : State) (v : Word16) : (s.setAx v).gates = s.gates := rfl
@[simp] theorem State.setAx_links (s : State) (v : Word16) : (s.setAx v).links = s.links := rfl
@[simp] theorem State.setAx_denied (s : State) (v : Word16) : (s.setAx v).denied = s.denied := rfl
@[simp] theorem State.setAx_mem (s : State) (v : Word16) : (s.setAx v).mem = s.mem := rfl
@[simp] theorem State.setAx_params (s : State) (v : Word16) : (s.setAx v).params = s.params := rfl
@[simp] theorem State.setAx_draws (s : State) (v : Word16) : (s.setAx v).draws = s.draws := rfl
@[simp] theorem State.setAx_overrun (s : State) (v : Word16) : (s.setAx v).overrun = s.overrun := rfl
@[simp] theorem State.setAx_stored (s : State) (v : Word16) : (s.setAx v).stored = s.stored := rfl
@[simp] theorem State.setAx_pendingStores (s : State) (v : Word16) :
    (s.setAx v).pendingStores = s.pendingStores := rfl
@[simp] theorem State.setAx_pendingLoads (s : State) (v : Word16) : (s.setAx v).pendingLoads = s.pendingLoads := rfl
@[simp] theorem State.setAx_inputs (s : State) (v : Word16) : (s.setAx v).inputs = s.inputs := rfl

/-! ## synced -/

@[simp] theorem State.synced_regs (s : State) : (s.synced).regs = s.regs := rfl
@[simp] theorem State.synced_empty (s : State) : (s.synced).empty = s.empty := rfl
@[simp] theorem State.synced_sw (s : State) : (s.synced).sw = s.sw := rfl
@[simp] theorem State.synced_cw (s : State) : (s.synced).cw = s.cw := rfl
@[simp] theorem State.synced_fip (s : State) : (s.synced).fip = s.fip := rfl
@[simp] theorem State.synced_fdp (s : State) : (s.synced).fdp = s.fdp := rfl
@[simp] theorem State.synced_fop (s : State) : (s.synced).fop = s.fop := rfl
@[simp] theorem State.synced_gpr (s : State) : (s.synced).gpr = s.gpr := rfl
@[simp] theorem State.synced_seg (s : State) : (s.synced).seg = s.seg := rfl
@[simp] theorem State.synced_eip (s : State) : (s.synced).eip = s.eip := rfl
@[simp] theorem State.synced_mode (s : State) : (s.synced).mode = s.mode := rfl
@[simp] theorem State.synced_cr0 (s : State) : (s.synced).cr0 = s.cr0 := rfl
@[simp] theorem State.synced_flags (s : State) : (s.synced).flags = s.flags := rfl
@[simp] theorem State.synced_gates (s : State) : (s.synced).gates = s.gates := rfl
@[simp] theorem State.synced_links (s : State) : (s.synced).links = s.links := rfl
@[simp] theorem State.synced_denied (s : State) : (s.synced).denied = s.denied := rfl
@[simp] theorem State.synced_mem (s : State) : (s.synced).mem = s.mem := rfl
@[simp] theorem State.synced_params (s : State) : (s.synced).params = s.params := rfl
@[simp] theorem State.synced_draws (s : State) : (s.synced).draws = s.draws := rfl
@[simp] theorem State.synced_overrun (s : State) : (s.synced).overrun = s.overrun := rfl
@[simp] theorem State.synced_stored (s : State) : (s.synced).stored = s.stored := rfl
@[simp] theorem State.synced_pendingStores (s : State) : (s.synced).pendingStores = [] := rfl
@[simp] theorem State.synced_pendingLoads (s : State) : (s.synced).pendingLoads = [] := rfl
@[simp] theorem State.synced_inputs (s : State) : (s.synced).inputs = s.inputs := rfl

/-! ## noteLoad -/

@[simp] theorem State.noteLoad_regs (s : State) (l : List Nat) : (s.noteLoad l).regs = s.regs := rfl
@[simp] theorem State.noteLoad_empty (s : State) (l : List Nat) : (s.noteLoad l).empty = s.empty := rfl
@[simp] theorem State.noteLoad_sw (s : State) (l : List Nat) : (s.noteLoad l).sw = s.sw := rfl
@[simp] theorem State.noteLoad_cw (s : State) (l : List Nat) : (s.noteLoad l).cw = s.cw := rfl
@[simp] theorem State.noteLoad_fip (s : State) (l : List Nat) : (s.noteLoad l).fip = s.fip := rfl
@[simp] theorem State.noteLoad_fdp (s : State) (l : List Nat) : (s.noteLoad l).fdp = s.fdp := rfl
@[simp] theorem State.noteLoad_fop (s : State) (l : List Nat) : (s.noteLoad l).fop = s.fop := rfl
@[simp] theorem State.noteLoad_gpr (s : State) (l : List Nat) : (s.noteLoad l).gpr = s.gpr := rfl
@[simp] theorem State.noteLoad_seg (s : State) (l : List Nat) : (s.noteLoad l).seg = s.seg := rfl
@[simp] theorem State.noteLoad_eip (s : State) (l : List Nat) : (s.noteLoad l).eip = s.eip := rfl
@[simp] theorem State.noteLoad_mode (s : State) (l : List Nat) : (s.noteLoad l).mode = s.mode := rfl
@[simp] theorem State.noteLoad_cr0 (s : State) (l : List Nat) : (s.noteLoad l).cr0 = s.cr0 := rfl
@[simp] theorem State.noteLoad_flags (s : State) (l : List Nat) : (s.noteLoad l).flags = s.flags := rfl
@[simp] theorem State.noteLoad_gates (s : State) (l : List Nat) : (s.noteLoad l).gates = s.gates := rfl
@[simp] theorem State.noteLoad_links (s : State) (l : List Nat) : (s.noteLoad l).links = s.links := rfl
@[simp] theorem State.noteLoad_denied (s : State) (l : List Nat) : (s.noteLoad l).denied = s.denied := rfl
@[simp] theorem State.noteLoad_mem (s : State) (l : List Nat) : (s.noteLoad l).mem = s.mem := rfl
@[simp] theorem State.noteLoad_params (s : State) (l : List Nat) : (s.noteLoad l).params = s.params := rfl
@[simp] theorem State.noteLoad_draws (s : State) (l : List Nat) : (s.noteLoad l).draws = s.draws := rfl
@[simp] theorem State.noteLoad_overrun (s : State) (l : List Nat) : (s.noteLoad l).overrun = s.overrun := rfl
@[simp] theorem State.noteLoad_stored (s : State) (l : List Nat) : (s.noteLoad l).stored = s.stored := rfl
@[simp] theorem State.noteLoad_pendingStores (s : State) (l : List Nat) :
    (s.noteLoad l).pendingStores = s.pendingStores := rfl
@[simp] theorem State.noteLoad_pendingLoads (s : State) (l : List Nat) :
    (s.noteLoad l).pendingLoads = l ++ s.pendingLoads := rfl
@[simp] theorem State.noteLoad_inputs (s : State) (l : List Nat) : (s.noteLoad l).inputs = s.inputs := rfl

/-! ## noteStore -/

@[simp] theorem State.noteStore_regs (s : State) (l : List Nat) : (s.noteStore l).regs = s.regs := rfl
@[simp] theorem State.noteStore_empty (s : State) (l : List Nat) : (s.noteStore l).empty = s.empty := rfl
@[simp] theorem State.noteStore_sw (s : State) (l : List Nat) : (s.noteStore l).sw = s.sw := rfl
@[simp] theorem State.noteStore_cw (s : State) (l : List Nat) : (s.noteStore l).cw = s.cw := rfl
@[simp] theorem State.noteStore_fip (s : State) (l : List Nat) : (s.noteStore l).fip = s.fip := rfl
@[simp] theorem State.noteStore_fdp (s : State) (l : List Nat) : (s.noteStore l).fdp = s.fdp := rfl
@[simp] theorem State.noteStore_fop (s : State) (l : List Nat) : (s.noteStore l).fop = s.fop := rfl
@[simp] theorem State.noteStore_gpr (s : State) (l : List Nat) : (s.noteStore l).gpr = s.gpr := rfl
@[simp] theorem State.noteStore_seg (s : State) (l : List Nat) : (s.noteStore l).seg = s.seg := rfl
@[simp] theorem State.noteStore_eip (s : State) (l : List Nat) : (s.noteStore l).eip = s.eip := rfl
@[simp] theorem State.noteStore_mode (s : State) (l : List Nat) : (s.noteStore l).mode = s.mode := rfl
@[simp] theorem State.noteStore_cr0 (s : State) (l : List Nat) : (s.noteStore l).cr0 = s.cr0 := rfl
@[simp] theorem State.noteStore_flags (s : State) (l : List Nat) : (s.noteStore l).flags = s.flags := rfl
@[simp] theorem State.noteStore_gates (s : State) (l : List Nat) : (s.noteStore l).gates = s.gates := rfl
@[simp] theorem State.noteStore_links (s : State) (l : List Nat) : (s.noteStore l).links = s.links := rfl
@[simp] theorem State.noteStore_denied (s : State) (l : List Nat) : (s.noteStore l).denied = s.denied := rfl
@[simp] theorem State.noteStore_mem (s : State) (l : List Nat) : (s.noteStore l).mem = s.mem := rfl
@[simp] theorem State.noteStore_params (s : State) (l : List Nat) : (s.noteStore l).params = s.params := rfl
@[simp] theorem State.noteStore_draws (s : State) (l : List Nat) : (s.noteStore l).draws = s.draws := rfl
@[simp] theorem State.noteStore_overrun (s : State) (l : List Nat) : (s.noteStore l).overrun = s.overrun := rfl
@[simp] theorem State.noteStore_stored (s : State) (l : List Nat) : (s.noteStore l).stored = s.stored := rfl
@[simp] theorem State.noteStore_pendingStores (s : State) (l : List Nat) :
    (s.noteStore l).pendingStores = l ++ s.pendingStores := rfl
@[simp] theorem State.noteStore_pendingLoads (s : State) (l : List Nat) :
    (s.noteStore l).pendingLoads = s.pendingLoads := rfl
@[simp] theorem State.noteStore_inputs (s : State) (l : List Nat) : (s.noteStore l).inputs = s.inputs := rfl

/-! ## store -/

@[simp] theorem State.store_regs (s : State) (l : List Nat) (bs : List Byte) : (s.store l bs).regs = s.regs := rfl
@[simp] theorem State.store_empty (s : State) (l : List Nat) (bs : List Byte) : (s.store l bs).empty = s.empty := rfl
@[simp] theorem State.store_sw (s : State) (l : List Nat) (bs : List Byte) : (s.store l bs).sw = s.sw := rfl
@[simp] theorem State.store_cw (s : State) (l : List Nat) (bs : List Byte) : (s.store l bs).cw = s.cw := rfl
@[simp] theorem State.store_fip (s : State) (l : List Nat) (bs : List Byte) : (s.store l bs).fip = s.fip := rfl
@[simp] theorem State.store_fdp (s : State) (l : List Nat) (bs : List Byte) : (s.store l bs).fdp = s.fdp := rfl
@[simp] theorem State.store_fop (s : State) (l : List Nat) (bs : List Byte) : (s.store l bs).fop = s.fop := rfl
@[simp] theorem State.store_gpr (s : State) (l : List Nat) (bs : List Byte) : (s.store l bs).gpr = s.gpr := rfl
@[simp] theorem State.store_seg (s : State) (l : List Nat) (bs : List Byte) : (s.store l bs).seg = s.seg := rfl
@[simp] theorem State.store_eip (s : State) (l : List Nat) (bs : List Byte) : (s.store l bs).eip = s.eip := rfl
@[simp] theorem State.store_mode (s : State) (l : List Nat) (bs : List Byte) : (s.store l bs).mode = s.mode := rfl
@[simp] theorem State.store_cr0 (s : State) (l : List Nat) (bs : List Byte) : (s.store l bs).cr0 = s.cr0 := rfl
@[simp] theorem State.store_flags (s : State) (l : List Nat) (bs : List Byte) : (s.store l bs).flags = s.flags := rfl
@[simp] theorem State.store_gates (s : State) (l : List Nat) (bs : List Byte) : (s.store l bs).gates = s.gates := rfl
@[simp] theorem State.store_links (s : State) (l : List Nat) (bs : List Byte) : (s.store l bs).links = s.links := rfl
@[simp] theorem State.store_denied (s : State) (l : List Nat) (bs : List Byte) :
    (s.store l bs).denied = s.denied := rfl
@[simp] theorem State.store_mem (s : State) (l : List Nat) (bs : List Byte) :
    (s.store l bs).mem = writeBytes s.mem l bs := rfl
@[simp] theorem State.store_params (s : State) (l : List Nat) (bs : List Byte) :
    (s.store l bs).params = s.params := rfl
@[simp] theorem State.store_draws (s : State) (l : List Nat) (bs : List Byte) : (s.store l bs).draws = s.draws := rfl
@[simp] theorem State.store_overrun (s : State) (l : List Nat) (bs : List Byte) :
    (s.store l bs).overrun = s.overrun := rfl
@[simp] theorem State.store_stored (s : State) (l : List Nat) (bs : List Byte) :
    (s.store l bs).stored = l ++ s.stored := rfl
@[simp] theorem State.store_pendingStores (s : State) (l : List Nat) (bs : List Byte) :
    (s.store l bs).pendingStores = s.pendingStores := rfl
@[simp] theorem State.store_pendingLoads (s : State) (l : List Nat) (bs : List Byte) :
    (s.store l bs).pendingLoads = s.pendingLoads := rfl
@[simp] theorem State.store_inputs (s : State) (l : List Nat) (bs : List Byte) :
    (s.store l bs).inputs = s.inputs := rfl

/-! ## advance -/

@[simp] theorem State.advance_regs (s : State) (i : Instr) : (s.advance i).regs = s.regs := rfl
@[simp] theorem State.advance_empty (s : State) (i : Instr) : (s.advance i).empty = s.empty := rfl
@[simp] theorem State.advance_sw (s : State) (i : Instr) : (s.advance i).sw = s.sw := rfl
@[simp] theorem State.advance_cw (s : State) (i : Instr) : (s.advance i).cw = s.cw := rfl
@[simp] theorem State.advance_fip (s : State) (i : Instr) : (s.advance i).fip = s.fip := rfl
@[simp] theorem State.advance_fdp (s : State) (i : Instr) : (s.advance i).fdp = s.fdp := rfl
@[simp] theorem State.advance_fop (s : State) (i : Instr) : (s.advance i).fop = s.fop := rfl
@[simp] theorem State.advance_gpr (s : State) (i : Instr) : (s.advance i).gpr = s.gpr := rfl
@[simp] theorem State.advance_seg (s : State) (i : Instr) : (s.advance i).seg = s.seg := rfl
@[simp] theorem State.advance_mode (s : State) (i : Instr) : (s.advance i).mode = s.mode := rfl
@[simp] theorem State.advance_cr0 (s : State) (i : Instr) : (s.advance i).cr0 = s.cr0 := rfl
@[simp] theorem State.advance_flags (s : State) (i : Instr) : (s.advance i).flags = s.flags := rfl
@[simp] theorem State.advance_gates (s : State) (i : Instr) : (s.advance i).gates = s.gates := rfl
@[simp] theorem State.advance_links (s : State) (i : Instr) : (s.advance i).links = s.links := rfl
@[simp] theorem State.advance_denied (s : State) (i : Instr) : (s.advance i).denied = s.denied := rfl
@[simp] theorem State.advance_mem (s : State) (i : Instr) : (s.advance i).mem = s.mem := rfl
@[simp] theorem State.advance_params (s : State) (i : Instr) : (s.advance i).params = s.params := rfl
@[simp] theorem State.advance_draws (s : State) (i : Instr) : (s.advance i).draws = s.draws := rfl
@[simp] theorem State.advance_overrun (s : State) (i : Instr) : (s.advance i).overrun = s.overrun := rfl
@[simp] theorem State.advance_stored (s : State) (i : Instr) : (s.advance i).stored = s.stored := rfl
@[simp] theorem State.advance_pendingStores (s : State) (i : Instr) :
    (s.advance i).pendingStores = s.pendingStores := rfl
@[simp] theorem State.advance_pendingLoads (s : State) (i : Instr) :
    (s.advance i).pendingLoads = s.pendingLoads := rfl
@[simp] theorem State.advance_inputs (s : State) (i : Instr) : (s.advance i).inputs = s.inputs := rfl

/-! ## recordMem -/

@[simp] theorem State.recordMem_regs (s : State) (i : Instr) (p : FarPtr) : (s.recordMem i p).regs = s.regs := rfl
@[simp] theorem State.recordMem_empty (s : State) (i : Instr) (p : FarPtr) : (s.recordMem i p).empty = s.empty := rfl
@[simp] theorem State.recordMem_sw (s : State) (i : Instr) (p : FarPtr) : (s.recordMem i p).sw = s.sw := rfl
@[simp] theorem State.recordMem_cw (s : State) (i : Instr) (p : FarPtr) : (s.recordMem i p).cw = s.cw := rfl
@[simp] theorem State.recordMem_fip (s : State) (i : Instr) (p : FarPtr) :
    (s.recordMem i p).fip = ⟨s.seg.cs.sel, s.eip⟩ := rfl
@[simp] theorem State.recordMem_fdp (s : State) (i : Instr) (p : FarPtr) : (s.recordMem i p).fdp = p := rfl
@[simp] theorem State.recordMem_fop (s : State) (i : Instr) (p : FarPtr) : (s.recordMem i p).fop = i.fop := rfl
@[simp] theorem State.recordMem_gpr (s : State) (i : Instr) (p : FarPtr) : (s.recordMem i p).gpr = s.gpr := rfl
@[simp] theorem State.recordMem_seg (s : State) (i : Instr) (p : FarPtr) : (s.recordMem i p).seg = s.seg := rfl
@[simp] theorem State.recordMem_eip (s : State) (i : Instr) (p : FarPtr) : (s.recordMem i p).eip = s.eip := rfl
@[simp] theorem State.recordMem_mode (s : State) (i : Instr) (p : FarPtr) : (s.recordMem i p).mode = s.mode := rfl
@[simp] theorem State.recordMem_cr0 (s : State) (i : Instr) (p : FarPtr) : (s.recordMem i p).cr0 = s.cr0 := rfl
@[simp] theorem State.recordMem_flags (s : State) (i : Instr) (p : FarPtr) : (s.recordMem i p).flags = s.flags := rfl
@[simp] theorem State.recordMem_gates (s : State) (i : Instr) (p : FarPtr) : (s.recordMem i p).gates = s.gates := rfl
@[simp] theorem State.recordMem_links (s : State) (i : Instr) (p : FarPtr) : (s.recordMem i p).links = s.links := rfl
@[simp] theorem State.recordMem_denied (s : State) (i : Instr) (p : FarPtr) :
    (s.recordMem i p).denied = s.denied := rfl
@[simp] theorem State.recordMem_mem (s : State) (i : Instr) (p : FarPtr) : (s.recordMem i p).mem = s.mem := rfl
@[simp] theorem State.recordMem_params (s : State) (i : Instr) (p : FarPtr) :
    (s.recordMem i p).params = s.params := rfl
@[simp] theorem State.recordMem_draws (s : State) (i : Instr) (p : FarPtr) : (s.recordMem i p).draws = s.draws := rfl
@[simp] theorem State.recordMem_overrun (s : State) (i : Instr) (p : FarPtr) :
    (s.recordMem i p).overrun = s.overrun := rfl
@[simp] theorem State.recordMem_stored (s : State) (i : Instr) (p : FarPtr) :
    (s.recordMem i p).stored = s.stored := rfl
@[simp] theorem State.recordMem_pendingStores (s : State) (i : Instr) (p : FarPtr) :
    (s.recordMem i p).pendingStores = s.pendingStores := rfl
@[simp] theorem State.recordMem_pendingLoads (s : State) (i : Instr) (p : FarPtr) :
    (s.recordMem i p).pendingLoads = s.pendingLoads := rfl
@[simp] theorem State.recordMem_inputs (s : State) (i : Instr) (p : FarPtr) :
    (s.recordMem i p).inputs = s.inputs := rfl

/-! ## recordReg -/

@[simp] theorem State.recordReg_regs (s : State) (i : Instr) : (s.recordReg i).regs = s.regs := rfl
@[simp] theorem State.recordReg_empty (s : State) (i : Instr) : (s.recordReg i).empty = s.empty := rfl
@[simp] theorem State.recordReg_sw (s : State) (i : Instr) : (s.recordReg i).sw = s.sw := rfl
@[simp] theorem State.recordReg_cw (s : State) (i : Instr) : (s.recordReg i).cw = s.cw := rfl
@[simp] theorem State.recordReg_fip (s : State) (i : Instr) : (s.recordReg i).fip = ⟨s.seg.cs.sel, s.eip⟩ := rfl
@[simp] theorem State.recordReg_fdp (s : State) (i : Instr) : (s.recordReg i).fdp = farPtrOf (s.drawn 48) := rfl
@[simp] theorem State.recordReg_fop (s : State) (i : Instr) : (s.recordReg i).fop = i.fop := rfl
@[simp] theorem State.recordReg_gpr (s : State) (i : Instr) : (s.recordReg i).gpr = s.gpr := rfl
@[simp] theorem State.recordReg_seg (s : State) (i : Instr) : (s.recordReg i).seg = s.seg := rfl
@[simp] theorem State.recordReg_eip (s : State) (i : Instr) : (s.recordReg i).eip = s.eip := rfl
@[simp] theorem State.recordReg_mode (s : State) (i : Instr) : (s.recordReg i).mode = s.mode := rfl
@[simp] theorem State.recordReg_cr0 (s : State) (i : Instr) : (s.recordReg i).cr0 = s.cr0 := rfl
@[simp] theorem State.recordReg_flags (s : State) (i : Instr) : (s.recordReg i).flags = s.flags := rfl
@[simp] theorem State.recordReg_gates (s : State) (i : Instr) : (s.recordReg i).gates = s.gates := rfl
@[simp] theorem State.recordReg_links (s : State) (i : Instr) : (s.recordReg i).links = s.links := rfl
@[simp] theorem State.recordReg_denied (s : State) (i : Instr) : (s.recordReg i).denied = s.denied := rfl
@[simp] theorem State.recordReg_mem (s : State) (i : Instr) : (s.recordReg i).mem = s.mem := rfl
@[simp] theorem State.recordReg_params (s : State) (i : Instr) : (s.recordReg i).params = s.params := rfl
@[simp] theorem State.recordReg_draws (s : State) (i : Instr) : (s.recordReg i).draws = s.draws + 1 := rfl
@[simp] theorem State.recordReg_overrun (s : State) (i : Instr) : (s.recordReg i).overrun = s.overrun := rfl
@[simp] theorem State.recordReg_stored (s : State) (i : Instr) : (s.recordReg i).stored = s.stored := rfl
@[simp] theorem State.recordReg_pendingStores (s : State) (i : Instr) :
    (s.recordReg i).pendingStores = s.pendingStores := rfl
@[simp] theorem State.recordReg_pendingLoads (s : State) (i : Instr) :
    (s.recordReg i).pendingLoads = s.pendingLoads := rfl
@[simp] theorem State.recordReg_inputs (s : State) (i : Instr) : (s.recordReg i).inputs = s.inputs := rfl

/-! ## enter -/

@[simp] theorem State.enter_regs (s : State) (t : Trap) (r : Word32) : (s.enter t r).regs = s.regs := rfl
@[simp] theorem State.enter_empty (s : State) (t : Trap) (r : Word32) : (s.enter t r).empty = s.empty := rfl
@[simp] theorem State.enter_sw (s : State) (t : Trap) (r : Word32) : (s.enter t r).sw = s.sw := rfl
@[simp] theorem State.enter_cw (s : State) (t : Trap) (r : Word32) : (s.enter t r).cw = s.cw := rfl
@[simp] theorem State.enter_fip (s : State) (t : Trap) (r : Word32) : (s.enter t r).fip = s.fip := rfl
@[simp] theorem State.enter_fdp (s : State) (t : Trap) (r : Word32) : (s.enter t r).fdp = s.fdp := rfl
@[simp] theorem State.enter_fop (s : State) (t : Trap) (r : Word32) : (s.enter t r).fop = s.fop := rfl
@[simp] theorem State.enter_gpr (s : State) (t : Trap) (r : Word32) : (s.enter t r).gpr = s.gpr := rfl
@[simp] theorem State.enter_seg (s : State) (t : Trap) (r : Word32) :
    (s.enter t r).seg = { s.seg with cs := (s.gates.get t).cs } := rfl
@[simp] theorem State.enter_eip (s : State) (t : Trap) (r : Word32) : (s.enter t r).eip = (s.gates.get t).eip := rfl
@[simp] theorem State.enter_mode (s : State) (t : Trap) (r : Word32) : (s.enter t r).mode = s.mode := rfl
@[simp] theorem State.enter_cr0 (s : State) (t : Trap) (r : Word32) : (s.enter t r).cr0 = s.cr0 := rfl
@[simp] theorem State.enter_flags (s : State) (t : Trap) (r : Word32) :
    (s.enter t r).flags = { s.flags with intf := false } := rfl
@[simp] theorem State.enter_gates (s : State) (t : Trap) (r : Word32) : (s.enter t r).gates = s.gates := rfl
@[simp] theorem State.enter_links (s : State) (t : Trap) (r : Word32) :
    (s.enter t r).links = { trap := t, cs := s.seg.cs, eip := r, intf := s.flags.intf } :: s.links := rfl
@[simp] theorem State.enter_denied (s : State) (t : Trap) (r : Word32) : (s.enter t r).denied = s.denied := rfl
@[simp] theorem State.enter_mem (s : State) (t : Trap) (r : Word32) : (s.enter t r).mem = s.mem := rfl
@[simp] theorem State.enter_params (s : State) (t : Trap) (r : Word32) : (s.enter t r).params = s.params := rfl
@[simp] theorem State.enter_draws (s : State) (t : Trap) (r : Word32) : (s.enter t r).draws = s.draws := rfl
@[simp] theorem State.enter_overrun (s : State) (t : Trap) (r : Word32) : (s.enter t r).overrun = s.overrun := rfl
@[simp] theorem State.enter_stored (s : State) (t : Trap) (r : Word32) : (s.enter t r).stored = s.stored := rfl
@[simp] theorem State.enter_pendingStores (s : State) (t : Trap) (r : Word32) :
    (s.enter t r).pendingStores = s.pendingStores := rfl
@[simp] theorem State.enter_pendingLoads (s : State) (t : Trap) (r : Word32) :
    (s.enter t r).pendingLoads = s.pendingLoads := rfl
@[simp] theorem State.enter_inputs (s : State) (t : Trap) (r : Word32) : (s.enter t r).inputs = s.inputs := rfl

/-! ## takeTrap -/

@[simp] theorem State.takeTrap_regs (s : State) (t : Trap) : (s.takeTrap t).regs = s.regs := rfl
@[simp] theorem State.takeTrap_empty (s : State) (t : Trap) : (s.takeTrap t).empty = s.empty := rfl
@[simp] theorem State.takeTrap_sw (s : State) (t : Trap) : (s.takeTrap t).sw = s.sw := rfl
@[simp] theorem State.takeTrap_cw (s : State) (t : Trap) : (s.takeTrap t).cw = s.cw := rfl
@[simp] theorem State.takeTrap_fip (s : State) (t : Trap) : (s.takeTrap t).fip = s.fip := rfl
@[simp] theorem State.takeTrap_fdp (s : State) (t : Trap) : (s.takeTrap t).fdp = s.fdp := rfl
@[simp] theorem State.takeTrap_fop (s : State) (t : Trap) : (s.takeTrap t).fop = s.fop := rfl
@[simp] theorem State.takeTrap_gpr (s : State) (t : Trap) : (s.takeTrap t).gpr = s.gpr := rfl
@[simp] theorem State.takeTrap_seg (s : State) (t : Trap) :
    (s.takeTrap t).seg = { s.seg with cs := (s.gates.get t).cs } := rfl
@[simp] theorem State.takeTrap_eip (s : State) (t : Trap) : (s.takeTrap t).eip = (s.gates.get t).eip := rfl
@[simp] theorem State.takeTrap_mode (s : State) (t : Trap) : (s.takeTrap t).mode = s.mode := rfl
@[simp] theorem State.takeTrap_cr0 (s : State) (t : Trap) : (s.takeTrap t).cr0 = s.cr0 := rfl
@[simp] theorem State.takeTrap_flags (s : State) (t : Trap) :
    (s.takeTrap t).flags = { s.flags with intf := false } := rfl
@[simp] theorem State.takeTrap_gates (s : State) (t : Trap) : (s.takeTrap t).gates = s.gates := rfl
@[simp] theorem State.takeTrap_links (s : State) (t : Trap) :
    (s.takeTrap t).links = { trap := t, cs := s.seg.cs, eip := s.eip, intf := s.flags.intf } :: s.links := rfl
@[simp] theorem State.takeTrap_denied (s : State) (t : Trap) : (s.takeTrap t).denied = s.denied := rfl
@[simp] theorem State.takeTrap_mem (s : State) (t : Trap) : (s.takeTrap t).mem = s.mem := rfl
@[simp] theorem State.takeTrap_params (s : State) (t : Trap) : (s.takeTrap t).params = s.params := rfl
@[simp] theorem State.takeTrap_draws (s : State) (t : Trap) : (s.takeTrap t).draws = s.draws := rfl
@[simp] theorem State.takeTrap_overrun (s : State) (t : Trap) : (s.takeTrap t).overrun = s.overrun := rfl
@[simp] theorem State.takeTrap_stored (s : State) (t : Trap) : (s.takeTrap t).stored = s.stored := rfl
@[simp] theorem State.takeTrap_pendingStores (s : State) (t : Trap) :
    (s.takeTrap t).pendingStores = s.pendingStores := rfl
@[simp] theorem State.takeTrap_pendingLoads (s : State) (t : Trap) :
    (s.takeTrap t).pendingLoads = s.pendingLoads := rfl
@[simp] theorem State.takeTrap_inputs (s : State) (t : Trap) : (s.takeTrap t).inputs = s.inputs := rfl

/-! ## initNpx -/

@[simp] theorem State.initNpx_regs (s : State) : (s.initNpx).regs = s.regs := rfl
@[simp] theorem State.initNpx_empty (s : State) : (s.initNpx).empty = .replicate 8 true := rfl
@[simp] theorem State.initNpx_sw (s : State) : (s.initNpx).sw = .ofBits 0 := rfl
@[simp] theorem State.initNpx_cw (s : State) : (s.initNpx).cw = 0x037F := rfl
@[simp] theorem State.initNpx_fip (s : State) : (s.initNpx).fip = s.fip := rfl
@[simp] theorem State.initNpx_fdp (s : State) : (s.initNpx).fdp = s.fdp := rfl
@[simp] theorem State.initNpx_fop (s : State) : (s.initNpx).fop = s.fop := rfl
@[simp] theorem State.initNpx_gpr (s : State) : (s.initNpx).gpr = s.gpr := rfl
@[simp] theorem State.initNpx_seg (s : State) : (s.initNpx).seg = s.seg := rfl
@[simp] theorem State.initNpx_eip (s : State) : (s.initNpx).eip = s.eip := rfl
@[simp] theorem State.initNpx_mode (s : State) : (s.initNpx).mode = s.mode := rfl
@[simp] theorem State.initNpx_cr0 (s : State) : (s.initNpx).cr0 = s.cr0 := rfl
@[simp] theorem State.initNpx_flags (s : State) : (s.initNpx).flags = s.flags := rfl
@[simp] theorem State.initNpx_gates (s : State) : (s.initNpx).gates = s.gates := rfl
@[simp] theorem State.initNpx_links (s : State) : (s.initNpx).links = s.links := rfl
@[simp] theorem State.initNpx_denied (s : State) : (s.initNpx).denied = s.denied := rfl
@[simp] theorem State.initNpx_mem (s : State) : (s.initNpx).mem = s.mem := rfl
@[simp] theorem State.initNpx_params (s : State) : (s.initNpx).params = s.params := rfl
@[simp] theorem State.initNpx_draws (s : State) : (s.initNpx).draws = s.draws := rfl
@[simp] theorem State.initNpx_overrun (s : State) : (s.initNpx).overrun = s.overrun := rfl
@[simp] theorem State.initNpx_stored (s : State) : (s.initNpx).stored = s.stored := rfl
@[simp] theorem State.initNpx_pendingStores (s : State) : (s.initNpx).pendingStores = s.pendingStores := rfl
@[simp] theorem State.initNpx_pendingLoads (s : State) : (s.initNpx).pendingLoads = s.pendingLoads := rfl
@[simp] theorem State.initNpx_inputs (s : State) : (s.initNpx).inputs = s.inputs := rfl

/-! ## redrawNpx -/

@[simp] theorem State.redrawNpx_gpr (s : State) : (s.redrawNpx).gpr = s.gpr := rfl
@[simp] theorem State.redrawNpx_seg (s : State) : (s.redrawNpx).seg = s.seg := rfl
@[simp] theorem State.redrawNpx_eip (s : State) : (s.redrawNpx).eip = s.eip := rfl
@[simp] theorem State.redrawNpx_mode (s : State) : (s.redrawNpx).mode = s.mode := rfl
@[simp] theorem State.redrawNpx_cr0 (s : State) : (s.redrawNpx).cr0 = s.cr0 := rfl
@[simp] theorem State.redrawNpx_flags (s : State) : (s.redrawNpx).flags = s.flags := rfl
@[simp] theorem State.redrawNpx_gates (s : State) : (s.redrawNpx).gates = s.gates := rfl
@[simp] theorem State.redrawNpx_links (s : State) : (s.redrawNpx).links = s.links := rfl
@[simp] theorem State.redrawNpx_denied (s : State) : (s.redrawNpx).denied = s.denied := rfl
@[simp] theorem State.redrawNpx_mem (s : State) : (s.redrawNpx).mem = s.mem := rfl
@[simp] theorem State.redrawNpx_params (s : State) : (s.redrawNpx).params = s.params := rfl
@[simp] theorem State.redrawNpx_overrun (s : State) : (s.redrawNpx).overrun = s.overrun := rfl
@[simp] theorem State.redrawNpx_stored (s : State) : (s.redrawNpx).stored = s.stored := rfl
@[simp] theorem State.redrawNpx_pendingStores (s : State) : (s.redrawNpx).pendingStores = s.pendingStores := rfl
@[simp] theorem State.redrawNpx_pendingLoads (s : State) : (s.redrawNpx).pendingLoads = s.pendingLoads := rfl
@[simp] theorem State.redrawNpx_inputs (s : State) : (s.redrawNpx).inputs = s.inputs := rfl

/-! ## dropInput -/

@[simp] theorem State.dropInput_regs (s : State) : (s.dropInput).regs = s.regs := rfl
@[simp] theorem State.dropInput_empty (s : State) : (s.dropInput).empty = s.empty := rfl
@[simp] theorem State.dropInput_sw (s : State) : (s.dropInput).sw = s.sw := rfl
@[simp] theorem State.dropInput_cw (s : State) : (s.dropInput).cw = s.cw := rfl
@[simp] theorem State.dropInput_fip (s : State) : (s.dropInput).fip = s.fip := rfl
@[simp] theorem State.dropInput_fdp (s : State) : (s.dropInput).fdp = s.fdp := rfl
@[simp] theorem State.dropInput_fop (s : State) : (s.dropInput).fop = s.fop := rfl
@[simp] theorem State.dropInput_gpr (s : State) : (s.dropInput).gpr = s.gpr := rfl
@[simp] theorem State.dropInput_seg (s : State) : (s.dropInput).seg = s.seg := rfl
@[simp] theorem State.dropInput_eip (s : State) : (s.dropInput).eip = s.eip := rfl
@[simp] theorem State.dropInput_mode (s : State) : (s.dropInput).mode = s.mode := rfl
@[simp] theorem State.dropInput_cr0 (s : State) : (s.dropInput).cr0 = s.cr0 := rfl
@[simp] theorem State.dropInput_flags (s : State) : (s.dropInput).flags = s.flags := rfl
@[simp] theorem State.dropInput_gates (s : State) : (s.dropInput).gates = s.gates := rfl
@[simp] theorem State.dropInput_links (s : State) : (s.dropInput).links = s.links := rfl
@[simp] theorem State.dropInput_denied (s : State) : (s.dropInput).denied = s.denied := rfl
@[simp] theorem State.dropInput_mem (s : State) : (s.dropInput).mem = s.mem := rfl
@[simp] theorem State.dropInput_params (s : State) : (s.dropInput).params = s.params := rfl
@[simp] theorem State.dropInput_draws (s : State) : (s.dropInput).draws = s.draws := rfl
@[simp] theorem State.dropInput_overrun (s : State) : (s.dropInput).overrun = s.overrun := rfl
@[simp] theorem State.dropInput_stored (s : State) : (s.dropInput).stored = s.stored := rfl
@[simp] theorem State.dropInput_pendingStores (s : State) : (s.dropInput).pendingStores = s.pendingStores := rfl
@[simp] theorem State.dropInput_pendingLoads (s : State) : (s.dropInput).pendingLoads = s.pendingLoads := rfl
@[simp] theorem State.dropInput_inputs (s : State) : (s.dropInput).inputs = s.inputs.tail := rfl

/-! ## noted -/

@[simp] theorem State.noted_regs (s : State) (k : Manner) (w : Bool) (l : List Nat) :
    (s.noted k w l).regs = s.regs := by unfold State.noted; split <;> (try split) <;> rfl
@[simp] theorem State.noted_empty (s : State) (k : Manner) (w : Bool) (l : List Nat) :
    (s.noted k w l).empty = s.empty := by unfold State.noted; split <;> (try split) <;> rfl
@[simp] theorem State.noted_sw (s : State) (k : Manner) (w : Bool) (l : List Nat) :
    (s.noted k w l).sw = s.sw := by unfold State.noted; split <;> (try split) <;> rfl
@[simp] theorem State.noted_cw (s : State) (k : Manner) (w : Bool) (l : List Nat) :
    (s.noted k w l).cw = s.cw := by unfold State.noted; split <;> (try split) <;> rfl
@[simp] theorem State.noted_fip (s : State) (k : Manner) (w : Bool) (l : List Nat) :
    (s.noted k w l).fip = s.fip := by unfold State.noted; split <;> (try split) <;> rfl
@[simp] theorem State.noted_fdp (s : State) (k : Manner) (w : Bool) (l : List Nat) :
    (s.noted k w l).fdp = s.fdp := by unfold State.noted; split <;> (try split) <;> rfl
@[simp] theorem State.noted_fop (s : State) (k : Manner) (w : Bool) (l : List Nat) :
    (s.noted k w l).fop = s.fop := by unfold State.noted; split <;> (try split) <;> rfl
@[simp] theorem State.noted_gpr (s : State) (k : Manner) (w : Bool) (l : List Nat) :
    (s.noted k w l).gpr = s.gpr := by unfold State.noted; split <;> (try split) <;> rfl
@[simp] theorem State.noted_seg (s : State) (k : Manner) (w : Bool) (l : List Nat) :
    (s.noted k w l).seg = s.seg := by unfold State.noted; split <;> (try split) <;> rfl
@[simp] theorem State.noted_eip (s : State) (k : Manner) (w : Bool) (l : List Nat) :
    (s.noted k w l).eip = s.eip := by unfold State.noted; split <;> (try split) <;> rfl
@[simp] theorem State.noted_mode (s : State) (k : Manner) (w : Bool) (l : List Nat) :
    (s.noted k w l).mode = s.mode := by unfold State.noted; split <;> (try split) <;> rfl
@[simp] theorem State.noted_cr0 (s : State) (k : Manner) (w : Bool) (l : List Nat) :
    (s.noted k w l).cr0 = s.cr0 := by unfold State.noted; split <;> (try split) <;> rfl
@[simp] theorem State.noted_flags (s : State) (k : Manner) (w : Bool) (l : List Nat) :
    (s.noted k w l).flags = s.flags := by unfold State.noted; split <;> (try split) <;> rfl
@[simp] theorem State.noted_gates (s : State) (k : Manner) (w : Bool) (l : List Nat) :
    (s.noted k w l).gates = s.gates := by unfold State.noted; split <;> (try split) <;> rfl
@[simp] theorem State.noted_links (s : State) (k : Manner) (w : Bool) (l : List Nat) :
    (s.noted k w l).links = s.links := by unfold State.noted; split <;> (try split) <;> rfl
@[simp] theorem State.noted_denied (s : State) (k : Manner) (w : Bool) (l : List Nat) :
    (s.noted k w l).denied = s.denied := by unfold State.noted; split <;> (try split) <;> rfl
@[simp] theorem State.noted_mem (s : State) (k : Manner) (w : Bool) (l : List Nat) :
    (s.noted k w l).mem = s.mem := by unfold State.noted; split <;> (try split) <;> rfl
@[simp] theorem State.noted_params (s : State) (k : Manner) (w : Bool) (l : List Nat) :
    (s.noted k w l).params = s.params := by unfold State.noted; split <;> (try split) <;> rfl
@[simp] theorem State.noted_draws (s : State) (k : Manner) (w : Bool) (l : List Nat) :
    (s.noted k w l).draws = s.draws := by unfold State.noted; split <;> (try split) <;> rfl
@[simp] theorem State.noted_overrun (s : State) (k : Manner) (w : Bool) (l : List Nat) :
    (s.noted k w l).overrun = s.overrun := by unfold State.noted; split <;> (try split) <;> rfl
@[simp] theorem State.noted_stored (s : State) (k : Manner) (w : Bool) (l : List Nat) :
    (s.noted k w l).stored = s.stored := by unfold State.noted; split <;> (try split) <;> rfl
@[simp] theorem State.noted_inputs (s : State) (k : Manner) (w : Bool) (l : List Nat) :
    (s.noted k w l).inputs = s.inputs := by unfold State.noted; split <;> (try split) <;> rfl
@[simp] theorem State.noted_pendingStores (s : State) (k : Manner) (w : Bool) (l : List Nat) :
    (s.noted k w l).pendingStores = if k.notes && w then l ++ s.pendingStores else s.pendingStores := by
  unfold State.noted; cases k.notes <;> cases w <;> rfl
@[simp] theorem State.noted_pendingLoads (s : State) (k : Manner) (w : Bool) (l : List Nat) :
    (s.noted k w l).pendingLoads = if k.notes && !w then l ++ s.pendingLoads else s.pendingLoads := by
  unfold State.noted; cases k.notes <;> cases w <;> rfl

/-! ## The status word after a draw, `raise` and `stackFault` -/

@[simp] theorem State.drawC320_sw_busy (s : State) : (s.drawC320).sw.busy = s.sw.busy := rfl
@[simp] theorem State.drawC320_sw_top (s : State) : (s.drawC320).sw.top = s.sw.top := rfl
@[simp] theorem State.drawC320_sw_c1 (s : State) : (s.drawC320).sw.c1 = s.sw.c1 := rfl
@[simp] theorem State.drawC320_sw_es (s : State) : (s.drawC320).sw.es = s.sw.es := rfl
@[simp] theorem State.drawC320_sw_sf (s : State) : (s.drawC320).sw.sf = s.sw.sf := rfl
@[simp] theorem State.drawC320_sw_pe (s : State) : (s.drawC320).sw.pe = s.sw.pe := rfl
@[simp] theorem State.drawC320_sw_ue (s : State) : (s.drawC320).sw.ue = s.sw.ue := rfl
@[simp] theorem State.drawC320_sw_oe (s : State) : (s.drawC320).sw.oe = s.sw.oe := rfl
@[simp] theorem State.drawC320_sw_ze (s : State) : (s.drawC320).sw.ze = s.sw.ze := rfl
@[simp] theorem State.drawC320_sw_de (s : State) : (s.drawC320).sw.de = s.sw.de := rfl
@[simp] theorem State.drawC320_sw_ie (s : State) : (s.drawC320).sw.ie = s.sw.ie := rfl
@[simp] theorem State.drawC320ClearC1_sw_busy (s : State) : (s.drawC320ClearC1).sw.busy = s.sw.busy := rfl
@[simp] theorem State.drawC320ClearC1_sw_top (s : State) : (s.drawC320ClearC1).sw.top = s.sw.top := rfl
@[simp] theorem State.drawC320ClearC1_sw_es (s : State) : (s.drawC320ClearC1).sw.es = s.sw.es := rfl
@[simp] theorem State.drawC320ClearC1_sw_sf (s : State) : (s.drawC320ClearC1).sw.sf = s.sw.sf := rfl
@[simp] theorem State.drawC320ClearC1_sw_pe (s : State) : (s.drawC320ClearC1).sw.pe = s.sw.pe := rfl
@[simp] theorem State.drawC320ClearC1_sw_ue (s : State) : (s.drawC320ClearC1).sw.ue = s.sw.ue := rfl
@[simp] theorem State.drawC320ClearC1_sw_oe (s : State) : (s.drawC320ClearC1).sw.oe = s.sw.oe := rfl
@[simp] theorem State.drawC320ClearC1_sw_ze (s : State) : (s.drawC320ClearC1).sw.ze = s.sw.ze := rfl
@[simp] theorem State.drawC320ClearC1_sw_de (s : State) : (s.drawC320ClearC1).sw.de = s.sw.de := rfl
@[simp] theorem State.drawC320ClearC1_sw_ie (s : State) : (s.drawC320ClearC1).sw.ie = s.sw.ie := rfl
@[simp] theorem State.drawC320ClearC1_sw_c1 (s : State) : (s.drawC320ClearC1).sw.c1 = false := rfl
@[simp] theorem State.drawC30_sw_busy (s : State) : (s.drawC30).sw.busy = s.sw.busy := rfl
@[simp] theorem State.drawC30_sw_top (s : State) : (s.drawC30).sw.top = s.sw.top := rfl
@[simp] theorem State.drawC30_sw_c2 (s : State) : (s.drawC30).sw.c2 = s.sw.c2 := rfl
@[simp] theorem State.drawC30_sw_c1 (s : State) : (s.drawC30).sw.c1 = s.sw.c1 := rfl
@[simp] theorem State.drawC30_sw_es (s : State) : (s.drawC30).sw.es = s.sw.es := rfl
@[simp] theorem State.drawC30_sw_sf (s : State) : (s.drawC30).sw.sf = s.sw.sf := rfl
@[simp] theorem State.drawC30_sw_pe (s : State) : (s.drawC30).sw.pe = s.sw.pe := rfl
@[simp] theorem State.drawC30_sw_ue (s : State) : (s.drawC30).sw.ue = s.sw.ue := rfl
@[simp] theorem State.drawC30_sw_oe (s : State) : (s.drawC30).sw.oe = s.sw.oe := rfl
@[simp] theorem State.drawC30_sw_ze (s : State) : (s.drawC30).sw.ze = s.sw.ze := rfl
@[simp] theorem State.drawC30_sw_de (s : State) : (s.drawC30).sw.de = s.sw.de := rfl
@[simp] theorem State.drawC30_sw_ie (s : State) : (s.drawC30).sw.ie = s.sw.ie := rfl
@[simp] theorem State.drawC2_sw_busy (s : State) : (s.drawC2).sw.busy = s.sw.busy := rfl
@[simp] theorem State.drawC2_sw_c3 (s : State) : (s.drawC2).sw.c3 = s.sw.c3 := rfl
@[simp] theorem State.drawC2_sw_top (s : State) : (s.drawC2).sw.top = s.sw.top := rfl
@[simp] theorem State.drawC2_sw_c1 (s : State) : (s.drawC2).sw.c1 = s.sw.c1 := rfl
@[simp] theorem State.drawC2_sw_c0 (s : State) : (s.drawC2).sw.c0 = s.sw.c0 := rfl
@[simp] theorem State.drawC2_sw_es (s : State) : (s.drawC2).sw.es = s.sw.es := rfl
@[simp] theorem State.drawC2_sw_sf (s : State) : (s.drawC2).sw.sf = s.sw.sf := rfl
@[simp] theorem State.drawC2_sw_pe (s : State) : (s.drawC2).sw.pe = s.sw.pe := rfl
@[simp] theorem State.drawC2_sw_ue (s : State) : (s.drawC2).sw.ue = s.sw.ue := rfl
@[simp] theorem State.drawC2_sw_oe (s : State) : (s.drawC2).sw.oe = s.sw.oe := rfl
@[simp] theorem State.drawC2_sw_ze (s : State) : (s.drawC2).sw.ze = s.sw.ze := rfl
@[simp] theorem State.drawC2_sw_de (s : State) : (s.drawC2).sw.de = s.sw.de := rfl
@[simp] theorem State.drawC2_sw_ie (s : State) : (s.drawC2).sw.ie = s.sw.ie := rfl
@[simp] theorem State.drawC1_sw_busy (s : State) : (s.drawC1).sw.busy = s.sw.busy := rfl
@[simp] theorem State.drawC1_sw_c3 (s : State) : (s.drawC1).sw.c3 = s.sw.c3 := rfl
@[simp] theorem State.drawC1_sw_top (s : State) : (s.drawC1).sw.top = s.sw.top := rfl
@[simp] theorem State.drawC1_sw_c2 (s : State) : (s.drawC1).sw.c2 = s.sw.c2 := rfl
@[simp] theorem State.drawC1_sw_c0 (s : State) : (s.drawC1).sw.c0 = s.sw.c0 := rfl
@[simp] theorem State.drawC1_sw_es (s : State) : (s.drawC1).sw.es = s.sw.es := rfl
@[simp] theorem State.drawC1_sw_sf (s : State) : (s.drawC1).sw.sf = s.sw.sf := rfl
@[simp] theorem State.drawC1_sw_pe (s : State) : (s.drawC1).sw.pe = s.sw.pe := rfl
@[simp] theorem State.drawC1_sw_ue (s : State) : (s.drawC1).sw.ue = s.sw.ue := rfl
@[simp] theorem State.drawC1_sw_oe (s : State) : (s.drawC1).sw.oe = s.sw.oe := rfl
@[simp] theorem State.drawC1_sw_ze (s : State) : (s.drawC1).sw.ze = s.sw.ze := rfl
@[simp] theorem State.drawC1_sw_de (s : State) : (s.drawC1).sw.de = s.sw.de := rfl
@[simp] theorem State.drawC1_sw_ie (s : State) : (s.drawC1).sw.ie = s.sw.ie := rfl
@[simp] theorem State.drawC3210_sw_busy (s : State) : (s.drawC3210).sw.busy = s.sw.busy := rfl
@[simp] theorem State.drawC3210_sw_top (s : State) : (s.drawC3210).sw.top = s.sw.top := rfl
@[simp] theorem State.drawC3210_sw_es (s : State) : (s.drawC3210).sw.es = s.sw.es := rfl
@[simp] theorem State.drawC3210_sw_sf (s : State) : (s.drawC3210).sw.sf = s.sw.sf := rfl
@[simp] theorem State.drawC3210_sw_pe (s : State) : (s.drawC3210).sw.pe = s.sw.pe := rfl
@[simp] theorem State.drawC3210_sw_ue (s : State) : (s.drawC3210).sw.ue = s.sw.ue := rfl
@[simp] theorem State.drawC3210_sw_oe (s : State) : (s.drawC3210).sw.oe = s.sw.oe := rfl
@[simp] theorem State.drawC3210_sw_ze (s : State) : (s.drawC3210).sw.ze = s.sw.ze := rfl
@[simp] theorem State.drawC3210_sw_de (s : State) : (s.drawC3210).sw.de = s.sw.de := rfl
@[simp] theorem State.drawC3210_sw_ie (s : State) : (s.drawC3210).sw.ie = s.sw.ie := rfl
@[simp] theorem State.drawPe_sw_c3 (s : State) : (s.drawPe).sw.c3 = s.sw.c3 := rfl
@[simp] theorem State.drawPe_sw_top (s : State) : (s.drawPe).sw.top = s.sw.top := rfl
@[simp] theorem State.drawPe_sw_c2 (s : State) : (s.drawPe).sw.c2 = s.sw.c2 := rfl
@[simp] theorem State.drawPe_sw_c1 (s : State) : (s.drawPe).sw.c1 = s.sw.c1 := rfl
@[simp] theorem State.drawPe_sw_c0 (s : State) : (s.drawPe).sw.c0 = s.sw.c0 := rfl
@[simp] theorem State.drawPe_sw_sf (s : State) : (s.drawPe).sw.sf = s.sw.sf := rfl
@[simp] theorem State.drawPe_sw_ue (s : State) : (s.drawPe).sw.ue = s.sw.ue := rfl
@[simp] theorem State.drawPe_sw_oe (s : State) : (s.drawPe).sw.oe = s.sw.oe := rfl
@[simp] theorem State.drawPe_sw_ze (s : State) : (s.drawPe).sw.ze = s.sw.ze := rfl
@[simp] theorem State.drawPe_sw_de (s : State) : (s.drawPe).sw.de = s.sw.de := rfl
@[simp] theorem State.drawPe_sw_ie (s : State) : (s.drawPe).sw.ie = s.sw.ie := rfl

@[simp] theorem StatusWord.setFlag_c3 (w : StatusWord) (x : Exc) : (w.setFlag x).c3 = w.c3 := by cases x <;> rfl
@[simp] theorem StatusWord.setFlag_top (w : StatusWord) (x : Exc) : (w.setFlag x).top = w.top := by cases x <;> rfl
@[simp] theorem StatusWord.setFlag_c2 (w : StatusWord) (x : Exc) : (w.setFlag x).c2 = w.c2 := by cases x <;> rfl
@[simp] theorem StatusWord.setFlag_c1 (w : StatusWord) (x : Exc) : (w.setFlag x).c1 = w.c1 := by cases x <;> rfl
@[simp] theorem StatusWord.setFlag_c0 (w : StatusWord) (x : Exc) : (w.setFlag x).c0 = w.c0 := by cases x <;> rfl
@[simp] theorem StatusWord.setFlag_sf (w : StatusWord) (x : Exc) : (w.setFlag x).sf = w.sf := by cases x <;> rfl
@[simp] theorem State.stackFault_sw_c3 (s : State) (o : Bool) : (s.stackFault o).sw.c3 = s.sw.c3 := rfl
@[simp] theorem State.stackFault_sw_top (s : State) (o : Bool) : (s.stackFault o).sw.top = s.sw.top := rfl
@[simp] theorem State.stackFault_sw_c2 (s : State) (o : Bool) : (s.stackFault o).sw.c2 = s.sw.c2 := rfl
@[simp] theorem State.stackFault_sw_c0 (s : State) (o : Bool) : (s.stackFault o).sw.c0 = s.sw.c0 := rfl
@[simp] theorem State.stackFault_sw_c1 (s : State) (o : Bool) : (s.stackFault o).sw.c1 = o := rfl
@[simp] theorem State.stackFault_sw_sf (s : State) (o : Bool) : (s.stackFault o).sw.sf = true := rfl
@[simp] theorem State.stackFault_sw_ie (s : State) (o : Bool) : (s.stackFault o).sw.ie = true := rfl
@[simp] theorem State.raise_flag (s : State) (x : Exc) : (s.raise x).sw.flag x = true := by cases x <;> rfl

/-- `raise` sets one flag and leaves the others (R401). -/
theorem State.raise_flag_eq (s : State) (x y : Exc) : (s.raise x).sw.flag y = (s.sw.flag y || y == x) := by
  cases x <;> cases y <;> simp [State.raise, StatusWord.setFlag, StatusWord.flag]

/-! ## Registers and tags -/

@[simp] theorem State.putReg_reg (s : State) (k j : Fin 8) (v : Ext) :
    (s.putReg k v).reg j = if j = k then v else s.reg j := by
  simp only [State.reg, State.putReg, Fin.getElem_fin, Vector.getElem_set, Fin.ext_iff, eq_comm]

@[simp] theorem State.putReg_isEmpty (s : State) (k j : Fin 8) (v : Ext) :
    (s.putReg k v).isEmpty j = if j = k then false else s.isEmpty j := by
  simp only [State.isEmpty, State.putReg, Fin.getElem_fin, Vector.getElem_set, Fin.ext_iff, eq_comm]

@[simp] theorem State.freeReg_isEmpty (s : State) (k j : Fin 8) :
    (s.freeReg k).isEmpty j = if j = k then true else s.isEmpty j := by
  simp only [State.isEmpty, State.freeReg, Fin.getElem_fin, Vector.getElem_set, Fin.ext_iff, eq_comm]

@[simp] theorem State.push_reg (s : State) (v : Ext) (j : Fin 8) :
    (s.push v).reg j = if j = s.sw.top - 1 then v else s.reg j := State.putReg_reg _ _ _ _

@[simp] theorem State.push_isEmpty (s : State) (v : Ext) (j : Fin 8) :
    (s.push v).isEmpty j = if j = s.sw.top - 1 then false else s.isEmpty j := State.putReg_isEmpty _ _ _ _

@[simp] theorem State.pop_reg (s : State) (j : Fin 8) : s.pop.reg j = s.reg j := rfl

@[simp] theorem State.pop_isEmpty (s : State) (j : Fin 8) :
    s.pop.isEmpty j = if j = s.sw.top then true else s.isEmpty j := State.freeReg_isEmpty _ _ _

@[simp] theorem State.push_st_zero (s : State) (v : Ext) : (s.push v).st 0 = v := by
  simp [State.st, State.phys]

@[simp] theorem State.push_stEmpty_zero (s : State) (v : Ext) : (s.push v).stEmpty 0 = false := by
  simp [State.stEmpty, State.phys]

theorem fin8_push_succ : ∀ t i : Fin 8, t - 1 + (i + 1) = t + i := by decide
theorem fin8_push_ne : ∀ t i : Fin 8, i ≠ 7 → t + i ≠ t - 1 := by decide
theorem fin8_pop : ∀ t i : Fin 8, t + 1 + i = t + (i + 1) := by decide

/-- After a push, `ST(i + 1)` is the former `ST(i)`, but for `ST(7)`, whose register the push has written (R13). -/
theorem State.push_st_succ (s : State) (v : Ext) (i : Fin 8) (h : i ≠ 7) : (s.push v).st (i + 1) = s.st i := by
  simp only [State.st, State.phys, State.push_reg, State.push_sw, fin8_push_succ]
  rw [if_neg (fin8_push_ne _ _ h)]

/-- After a pop, `ST(i)` is the former `ST(i + 1)` (R13). -/
theorem State.pop_st (s : State) (i : Fin 8) : s.pop.st i = s.st (i + 1) := by
  simp only [State.st, State.phys, State.pop_sw, State.pop_reg, fin8_pop]

end Sys2Proof.Machine
end

