-- ==== Sys2Proof/Laws/Ops.lean ====
section
/-! SUPPORT. What each shared operation can do, said once: the processor's prelude, operands, responses to exceptions,
interrupts, the environment's acts and the step. -/

namespace Sys2Proof.Machine

/-! ## The prelude -/

theorem escStart_of_ready {k : Manner} {s : State} (h : s.Ready k.waits) (go : State → Result) :
    escStart k s go = go (if k.waits then s.synced else s) := by
  obtain ⟨hem, hts, het, hes⟩ := h
  unfold escStart
  cases hk : k.waits <;> simp_all

/-- An instruction that starts takes interrupt 7 or 16 or goes on (R425, R430). -/
theorem escStart_next {k : Manner} {s t : State} {go : State → Result} (h : escStart k s go = .next t) :
    ((s.cr0.em || s.cr0.ts) = true ∧ t = s.takeTrap .notAvailable) ∨
      (k.waits = true ∧ s.sw.es = true ∧ t = s.synced.takeTrap .numericError) ∨
      (s.Ready k.waits ∧ go (if k.waits then s.synced else s) = .next t) := by
  unfold escStart at h
  by_cases h7 : (s.cr0.em || s.cr0.ts) = true
  · rw [if_pos h7] at h
    exact .inl ⟨h7, (by injection h with h; exact h.symm)⟩
  · rw [if_neg h7] at h
    by_cases het : s.cr0.et = true
    · rw [if_neg (by simp [het])] at h
      by_cases h16 : (k.waits && s.sw.es) = true
      · rw [if_pos h16] at h
        simp only [Bool.and_eq_true] at h16
        exact .inr (.inl ⟨h16.1, h16.2, (by injection h with h; exact h.symm)⟩)
      · rw [if_neg h16] at h
        refine .inr (.inr ⟨⟨?_, ?_, het, ?_⟩, h⟩)
        · revert h7; cases s.cr0.em <;> simp
        · revert h7; cases s.cr0.ts <;> simp
        · intro hw; revert h16; simp [hw]
    · rw [if_pos (by simp [het])] at h
      cases h

theorem escReg_of_ready {k : Manner} {s : State} (i : Instr) (h : s.Ready k.waits) (body : State → Result) :
    escReg k i s body =
      body (if k.records then (if k.waits then s.synced else s).recordReg i else if k.waits then s.synced else s) :=
  escStart_of_ready h _

/-- The checks of addresses do not read what a waited instruction forgets. -/
@[simp] theorem place_synced (s : State) (p : List Prefix) (m : MemOp) : s.synced.place p m = s.place p m := rfl
@[simp] theorem firstFault_synced (s : State) (p : Place) (w : Bool) (n : Nat) :
    s.synced.firstFault p w n = s.firstFault p w n := rfl
@[simp] theorem laterFault_synced (s : State) (p : Place) (w : Bool) (n : Nat) :
    s.synced.laterFault p w n = s.laterFault p w n := rfl
@[simp] theorem laterFault_recordMem (s : State) (i : Instr) (q : FarPtr) (p : Place) (w : Bool) (n : Nat) :
    (s.recordMem i q).laterFault p w n = s.laterFault p w n := rfl
@[simp] theorem placeAddrs_synced (s : State) (p : Place) (n : Nat) : s.synced.placeAddrs p n = s.placeAddrs p n := rfl
@[simp] theorem placeAddrs_recordMem (s : State) (i : Instr) (q : FarPtr) (p : Place) (n : Nat) :
    (s.recordMem i q).placeAddrs p n = s.placeAddrs p n := rfl
@[simp] theorem readPlace_synced (s : State) (p : Place) (n : Nat) : s.synced.readPlace p n = s.readPlace p n := rfl
@[simp] theorem readPlace_recordMem (s : State) (i : Instr) (q : FarPtr) (p : Place) (n : Nat) :
    (s.recordMem i q).readPlace p n = s.readPlace p n := rfl

/-- What the check of an operand's beginning can find (R432, R433; assumption 9). -/
theorem firstFault_cases (s : State) (p : Place) (w : Bool) (n : Nat) :
    (s.firstFault p w n = some .generalProtection ∧ ∃ k < 2, segAllows p.seg w (wrapOffset p.seg p.off k) = false)
      ∨ (s.firstFault p w n = some .pageFault ∧ ∃ k < min 4 n, s.accessible p.seg p.off w k = false)
      ∨ (s.firstFault p w n = none ∧ (∀ k < 2, segAllows p.seg w (wrapOffset p.seg p.off k) = true)
          ∧ ∀ k < min 4 n, segAllows p.seg w (wrapOffset p.seg p.off k) = true →
              s.accessible p.seg p.off w k = true) := by
  unfold State.firstFault
  split
  · rename_i h
    simp only [Bool.not_eq_true', List.all_eq_false, List.mem_range, Bool.not_eq_true] at h
    exact .inl ⟨rfl, h⟩
  · rename_i h
    simp only [Bool.not_eq_true', Bool.not_eq_false, List.all_eq_true, List.mem_range] at h
    split
    · rename_i g
      simp only [List.any_eq_true, List.mem_range, Bool.and_eq_true, Bool.not_eq_true'] at g
      obtain ⟨k, hk, _, ha⟩ := g
      exact .inr (.inl ⟨rfl, k, hk, ha⟩)
    · rename_i g
      simp only [List.any_eq_true, List.mem_range, Bool.and_eq_true, Bool.not_eq_true', not_exists, not_and,
        Bool.not_eq_false] at g
      exact .inr (.inr ⟨rfl, h, g⟩)

/-- The state an instruction with a memory operand of `n` bytes hands to its body. -/
def State.started (k : Manner) (i : Instr) (m : MemOp) (write : Bool) (n : Nat) (s : State) : State :=
  (if k.records then (if k.waits then s.synced else s).recordMem i (s.place i.prefixes m).ptr
    else if k.waits then s.synced else s).noted k write (s.placeAddrs (s.place i.prefixes m) n)

/-- The checks of addresses do not read what the prelude records, notes and forgets. -/
theorem started_checks (k : Manner) (i : Instr) (m : MemOp) (write : Bool) (n : Nat) (s : State) :
    let u := s.started k i m write n
    (∀ p w l, u.laterFault p w l = s.laterFault p w l) ∧ (∀ p l, u.reachable p l = s.reachable p l)
      ∧ (∀ p l, u.placeAddrs p l = s.placeAddrs p l) ∧ ∀ p l, u.readPlace p l = s.readPlace p l := by
  unfold State.started State.noted
  cases k.records <;> cases k.waits <;> cases k.notes <;> cases write <;>
    exact ⟨fun _ _ _ => rfl, fun _ _ => rfl, fun _ _ => rfl, fun _ _ => rfl⟩

theorem escMem_of_ready {k : Manner} {s : State} (i : Instr) (m : MemOp) (write : Bool) (n : Nat)
    (h : s.Ready k.waits) (hf : s.firstFault (s.place i.prefixes m) write n = none) (go : Place → State → Result) :
    escMem k i m write n s go = go (s.place i.prefixes m) (s.started k i m write n) := by
  unfold escMem
  rw [escStart_of_ready h]
  cases hk : k.waits <;> simp_all [State.started]

/-- A load whose operand can be reached hands its bytes to the body (R200 (a)). -/
theorem escLoad_of_ready {k : Manner} {s : State} (i : Instr) (m : MemOp) (n : Nat) (h : s.Ready k.waits)
    (hr : s.Reachable i.prefixes m false n) (body : List Byte → State → Result) :
    escLoad k i m n s body = body (s.readPlace (s.place i.prefixes m) n) (s.started k i m false n) := by
  obtain ⟨e, _, _, e2⟩ := started_checks k i m false n s
  unfold escLoad
  rw [escMem_of_ready i m false n h hr.1]
  simp [e, e2, hr.2]

/-- A store whose operand can be reached goes on with what its body answers, stored if the body stores (R55). -/
theorem escStore_of_ready {k : Manner} {s : State} (i : Instr) (m : MemOp) (n : Nat) (h : s.Ready k.waits)
    (hr : s.Reachable i.prefixes m true n) (body : State → Stored) :
    escStore k i m n s body =
      .next
        ((match body (s.started k i m true n) with
          | (t, none) => t
          | (t, some bs) => t.store (s.placeAddrs (s.place i.prefixes m) n) bs).advance i) := by
  obtain ⟨e, _, e3, _⟩ := started_checks k i m true n s
  unfold escStore
  rw [escMem_of_ready i m true n h hr.1]
  simp only [e, e3, hr.2]
  rcases body (s.started k i m true n) with ⟨t, _ | bs⟩ <;> simp

/-- The instructions that precision control affects stop on PC = 01B and else complete (R25, U2). -/
theorem withPrecision_cases (i : Instr) (s : State) (body : Nat → State → State) :
    (pcBits s.cw = none ∧ withPrecision i s body = .fault .reservedPrecision) ∨
      ∃ p, pcBits s.cw = some p ∧ withPrecision i s body = .next ((body p s).advance i) := by
  unfold withPrecision
  cases h : pcBits s.cw with
  | none => exact .inl ⟨rfl, rfl⟩
  | some p => exact .inr ⟨p, rfl, rfl⟩

theorem pcBits_pos {cw : Word16} {p : Nat} (h : pcBits cw = some p) : p = 24 ∨ p = 53 ∨ p = 64 := by
  unfold pcBits at h
  split at h <;> simp_all

/-! ## Responses -/

theorem respond_cases (s : State) (x : Exc) (resp : State → State) :
    (masked s.cw x = true ∧ s.respond x resp = resp (s.raise x)) ∨
      (masked s.cw x = false ∧ s.respond x resp = s.raise x) := by
  unfold State.respond
  cases masked s.cw x <;> simp

theorem faultThen_cases (s : State) (o : Bool) (resp : State → State) :
    (masked s.cw .ie = true ∧ s.faultThen o resp = resp (s.stackFault o)) ∨
      (masked s.cw .ie = false ∧ s.faultThen o resp = s.stackFault o) := by
  unfold State.faultThen
  cases masked s.cw .ie <;> simp

theorem denormThen_cases (s : State) (d : Bool) (go : State → State) :
    (d = false ∧ s.denormThen d go = go s) ∨ (d = true ∧ s.denormThen d go = s.respond .de go) := by
  cases d <;> simp [State.denormThen]

/-! ## The choice of a transcendental result (R300) -/

/-- The value offered, where it lies within the bound, and else the chopped lower end. -/
theorem choose_cases (b : Bracket) (o : BitVec 64 × Int) :
    (withinBound b { n := o.1.toNat, k := o.2 } = true ∧ b.choose o = { n := o.1.toNat, k := o.2 })
      ∨ (withinBound b { n := o.1.toNat, k := o.2 } = false ∧ b.choose o = choppedLower b) := by
  unfold Bracket.choose
  cases withinBound b { n := o.1.toNat, k := o.2 } <;> simp

/-! ## The error summary (R18) -/

theorem summarise_holds (cw : Word16) (w : StatusWord) :
    (w.summarise cw).es = unmaskedFlag cw (w.summarise cw) ∧ (w.summarise cw).busy = (w.summarise cw).es := ⟨rfl, rfl⟩

/-- Setting a flag adds to the unmasked flags exactly what its mask lets through (R401). -/
theorem unmaskedFlag_setFlag (cw : Word16) (w : StatusWord) (x : Exc) :
    unmaskedFlag cw (w.setFlag x) = (unmaskedFlag cw w || !masked cw x) := by
  cases x
  · cases h : masked cw .ie <;> simp [unmaskedFlag, StatusWord.setFlag, h]
  · cases h : masked cw .de <;> simp [unmaskedFlag, StatusWord.setFlag, h]
  · cases h : masked cw .ze <;> simp [unmaskedFlag, StatusWord.setFlag, h]
  · cases h : masked cw .oe <;> simp [unmaskedFlag, StatusWord.setFlag, h]
  · cases h : masked cw .ue <;> simp [unmaskedFlag, StatusWord.setFlag, h]
  · cases h : masked cw .pe <;> simp [unmaskedFlag, StatusWord.setFlag, h]

/-- `raise` keeps ES and B what R18 says they are. -/
theorem raise_summaryHolds {s : State} (x : Exc) (h : s.summaryHolds) : (s.raise x).summaryHolds := by
  obtain ⟨h1, h2⟩ := h
  constructor
  · show (s.sw.es || !masked s.cw x) = unmaskedFlag s.cw (s.sw.setFlag x)
    rw [unmaskedFlag_setFlag, h1]
  · show (s.sw.busy || !masked s.cw x) = (s.sw.es || !masked s.cw x)
    rw [h2]

/-! ## Interrupts -/

/-- A return undoes the interrupt it returns from: nothing at all has changed (R425, R428, R440). -/
theorem returnFromTrap_takeTrap (s : State) (t : Trap) : (s.takeTrap t).returnFromTrap = some s := rfl

/-! ## The step -/

theorem dropInput_of_nil {s : State} (h : s.inputs = []) : s.dropInput = s := by
  cases s; simp_all [State.dropInput]

/-- A step is an act of the environment, or the instruction at CS:EIP. -/
theorem step_cases (s : State) :
    (∃ e rest, s.inputs = some e :: rest ∧ step s = s.dropInput.event e) ∨
      ((∀ e rest, s.inputs ≠ some e :: rest) ∧ step s = runNext s.dropInput) := by
  unfold step
  rcases h : s.inputs with _ | ⟨_ | e, rest⟩
  · exact .inr ⟨by simp, by rw [dropInput_of_nil h]⟩
  · exact .inr ⟨by simp, rfl⟩
  · exact .inl ⟨e, rest, rfl, rfl⟩

/-- An instruction that runs was decoded from bytes that no store has written (R85, R106). -/
theorem runNext_next {s t : State} (h : runNext s = .next t) :
    ∃ i rest, s.fetch = .ok (i, rest) ∧ s.codeStored i.length = false ∧ exec i s.unsettle = .next t := by
  unfold runNext at h
  split at h
  · cases h
  · rename_i i rest hf
    split at h
    · cases h
    · exact ⟨i, rest, hf, by simp_all, h⟩

end Sys2Proof.Machine
end

