-- ==== Sys2Proof/Laws/Effects.lean ====
section
/-! SUPPORT. What the shared operations do, each said once in the words of the statements: pushing and popping, raising
exceptions, stack faults, storing, advancing, delivery, and the ways an instruction with a memory operand can end. -/

namespace Sys2Proof.Machine

/-! ## Registers and tags (R12 to R15) -/

theorem reg_putReg (s : State) (k j : Fin 8) (v : Ext) : (s.putReg k v).reg j = if j = k then v else s.reg j := by
  simp only [State.reg, State.putReg_regs, Fin.getElem_fin, Vector.getElem_set, Fin.val_inj, eq_comm]

theorem isEmpty_putReg (s : State) (k j : Fin 8) (v : Ext) :
    (s.putReg k v).isEmpty j = if j = k then false else s.isEmpty j := by
  simp only [State.isEmpty, State.putReg_empty, Fin.getElem_fin, Vector.getElem_set, Fin.val_inj, eq_comm]

theorem isEmpty_freeReg (s : State) (k j : Fin 8) :
    (s.freeReg k).isEmpty j = if j = k then true else s.isEmpty j := by
  simp only [State.isEmpty, State.freeReg_empty, Fin.getElem_fin, Vector.getElem_set, Fin.val_inj, eq_comm]

theorem putReg_keepsRegs (s : State) (k : Fin 8) (v : Ext) : s.KeepsRegs (s.putReg k v) [k] := by
  intro j hj
  rw [reg_putReg, if_neg (by simpa using hj)]

theorem phys_seven (s : State) : s.phys 7 = s.sw.top - 1 := by
  unfold State.phys
  generalize s.sw.top = t
  revert t; decide

/-- A push writes the new top and its tag and nothing else of the stack (R13). -/
theorem push_spec (s : State) (v : Ext) :
    (s.push v).sw.top = s.sw.top - 1 ∧ (s.push v).st 0 = v ∧ (s.push v).stEmpty 0 = false
      ∧ s.KeepsRegs (s.push v) [s.phys 7] ∧ s.KeepsTags (s.push v) [s.phys 7] := by
  have hp : (s.push v).phys 0 = s.sw.top - 1 := by simp [State.phys]
  have hr : ∀ j, (s.push v).reg j = if j = s.sw.top - 1 then v else s.reg j :=
    fun j => reg_putReg (s.setTop (s.sw.top - 1)) _ j v
  have he : ∀ j, (s.push v).isEmpty j = if j = s.sw.top - 1 then false else s.isEmpty j :=
    fun j => isEmpty_putReg (s.setTop (s.sw.top - 1)) _ j v
  refine ⟨rfl, ?_, ?_, ?_, ?_⟩
  · rw [State.st, hr, hp, if_pos rfl]
  · rw [State.stEmpty, he, hp, if_pos rfl]
  · intro j hj
    rw [hr, if_neg (by simpa [phys_seven] using hj)]
  · intro j hj
    rw [he, if_neg (by simpa [phys_seven] using hj)]

/-- A pop empties the top and moves TOP up; no contents change (R13). -/
theorem pop_spec (s : State) :
    s.pop.sw.top = s.sw.top + 1 ∧ s.KeepsRegs s.pop []
      ∧ ∀ j, s.pop.isEmpty j = if j = s.sw.top then true else s.isEmpty j :=
  ⟨rfl, fun _ _ => rfl, fun j => isEmpty_freeReg s s.sw.top j⟩

/-! ## Exceptions (R401, R403, R410) -/

theorem flag_setFlag (w : StatusWord) (x y : Exc) : (w.setFlag x).flag y = (w.flag y || y == x) := by
  cases x <;> cases y <;> simp [StatusWord.setFlag, StatusWord.flag]

theorem setFlag_sf (w : StatusWord) (x : Exc) : (w.setFlag x).sf = w.sf := by cases x <;> rfl

theorem setFlag_top (w : StatusWord) (x : Exc) : (w.setFlag x).top = w.top := by cases x <;> rfl

theorem flag_raise (s : State) (x y : Exc) : (s.raise x).sw.flag y = (s.sw.flag y || y == x) := by
  rw [← flag_setFlag]
  cases y <;> rfl

/-- `raise` raises that exception and no other (R401). -/
theorem raise_raised (s : State) (x : Exc) : s.Raised (s.raise x) [x] :=
  ⟨fun y => by rw [flag_raise, List.contains_cons, List.contains_nil, Bool.or_false], setFlag_sf s.sw x, by simp, by simp⟩

theorem raised_nil (s : State) : s.Raised s [] := by simp [State.Raised]

/-- Exceptions raised one after the other are raised together. -/
theorem Raised_trans {s t u : State} {xs ys : List Exc} (hc : t.cw = s.cw) (h1 : s.Raised t xs) (h2 : t.Raised u ys) :
    s.Raised u (xs ++ ys) := by
  obtain ⟨f1, g1, e1, b1⟩ := h1
  obtain ⟨f2, g2, e2, b2⟩ := h2
  refine ⟨fun x => ?_, g2.trans g1, ?_, ?_⟩
  · rw [f2, f1, Bool.or_assoc]; simp
  · rw [e2, e1, hc, Bool.or_assoc, List.any_append]
  · rw [b2, b1, hc, Bool.or_assoc, List.any_append]

theorem raiseAll_cw (s : State) (fs : List Exc) : (s.raiseAll fs).cw = s.cw := by
  induction fs generalizing s with
  | nil => rfl
  | cons x fs ih => exact ih (s.raise x)

theorem raiseAll_raised (s : State) (fs : List Exc) : s.Raised (s.raiseAll fs) fs := by
  induction fs generalizing s with
  | nil => exact raised_nil s
  | cons x fs ih =>
    have h : s.Raised ((s.raise x).raiseAll fs) ([x] ++ fs) := Raised_trans (t := s.raise x) rfl (raise_raised s x) (ih _)
    exact h

/-- Raising exceptions changes flags, ES and B and nothing else of the state. -/
theorem raiseAll_keeps (s : State) (fs : List Exc) :
    (s.raiseAll fs).regs = s.regs ∧ (s.raiseAll fs).empty = s.empty ∧ (s.raiseAll fs).mem = s.mem
      ∧ (s.raiseAll fs).sw.top = s.sw.top ∧ s.KeepsCpu (s.raiseAll fs) ∧ (s.raiseAll fs).eip = s.eip := by
  induction fs generalizing s with
  | nil => exact ⟨rfl, rfl, rfl, rfl, ⟨rfl, rfl, rfl, rfl, rfl, rfl, rfl, rfl, rfl, rfl, rfl⟩, rfl⟩
  | cons x fs ih =>
    obtain ⟨h1, h2, h3, h4, h5, h6⟩ := ih (s.raise x)
    exact ⟨h1, h2, h3, h4.trans (setFlag_top s.sw x), h5, h6⟩

/-- A stack fault is signaled as R410 says. -/
theorem stackFault_spec (s : State) (o : Bool) : s.StackFaulted (s.stackFault o) o := by
  refine ⟨rfl, rfl, rfl, fun x hx => ?_, rfl, rfl⟩
  cases x
  · exact absurd rfl hx
  all_goals rfl

/-! ## Memory and the instruction pointer -/

/-- A store changes no byte outside the addresses it stores to. -/
theorem store_keepsMemory (s : State) (as : List Nat) (bs : List Byte) : s.KeepsMemory (s.store as bs) as :=
  fun a ha => readByte_writeBytes_other a s.mem as bs ha

theorem advance_advanced (s : State) (i : Instr) : s.Advanced (s.advance i) i := by
  unfold State.Advanced State.advance
  cases s.code32
  · simp only [Bool.false_eq_true, if_false, BitVec.toNat_ofNat]
    omega
  · simp [BitVec.toNat_add]

/-- An interrupt taken changes nothing of the numeric processor and no memory (R440). -/
theorem takeTrap_keeps (s : State) (t : Trap) :
    (s.takeTrap t).regs = s.regs ∧ (s.takeTrap t).empty = s.empty ∧ (s.takeTrap t).sw = s.sw
      ∧ (s.takeTrap t).cw = s.cw ∧ s.KeepsPointers (s.takeTrap t) ∧ (s.takeTrap t).mem = s.mem :=
  ⟨rfl, rfl, rfl, rfl, ⟨rfl, rfl, rfl⟩, rfl⟩

/-! ## Delivery (R134) -/

/-- A delivery is the overflow response, the response to a tiny result, or the rounded value itself. -/
theorem deliver_cases (cw : Word16) (before neg : Bool) (m : Mag) (p : Nat) (rc : Rounding) :
    (16383 < (roundTo neg rc m p).log2 ∧ deliver cw before neg m p rc = deliverOver cw neg m p rc)
      ∨ ((roundTo neg rc m p).log2 ≤ 16383 ∧ isTiny before (-16382) m (roundTo neg rc m p) = true
          ∧ deliver cw before neg m p rc = deliverTiny cw before neg m p rc)
      ∨ ((roundTo neg rc m p).log2 ≤ 16383 ∧ isTiny before (-16382) m (roundTo neg rc m p) = false
          ∧ deliver cw before neg m p rc = .rounded (pack neg (roundTo neg rc m p)) [] (roundTo neg rc m p)) := by
  unfold deliver
  by_cases h : 16383 < (roundTo neg rc m p).log2
  · exact .inl ⟨h, if_pos h⟩
  · cases h2 : isTiny before (-16382) m (roundTo neg rc m p)
    · exact .inr (.inr ⟨Int.not_lt.mp h, rfl, by simp [h, h2]⟩)
    · exact .inr (.inl ⟨Int.not_lt.mp h, rfl, by simp [h, h2]⟩)

/-- A delivery carried out writes its register with its value, raises its exceptions and sets C1. -/
theorem deliverTo_spec (s : State) (k : Fin 8) (d : Delivery Ext) :
    (s.deliverTo k d).reg k = d.val ∧ (s.deliverTo k d).sw.c1 = d.c1 ∧ s.KeepsRegs (s.deliverTo k d) [k]
      ∧ s.Raised (s.deliverTo k d) d.flags ∧ (s.deliverTo k d).sw.top = s.sw.top
      ∧ (s.deliverTo k d).mem = s.mem := by
  obtain ⟨hr, he, hm, ht, _, _⟩ := raiseAll_keeps s d.flags
  have h : s.Raised (s.raiseAll d.flags) d.flags := raiseAll_raised s d.flags
  refine ⟨?_, rfl, ?_, ?_, ht, hm⟩
  · rw [State.deliverTo, reg_putReg, if_pos rfl]
  · intro j hj
    rw [State.deliverTo, reg_putReg, if_neg (by simpa using hj)]
    show (s.raiseAll d.flags).regs[j] = s.regs[j]
    rw [hr]
  · obtain ⟨h1, h2, h3, h4⟩ := h
    exact ⟨fun x => by rw [← h1 x]; cases x <;> rfl, h2, h3, h4⟩

/-- A transcendental result delivered writes its register with the delivered value, raises the delivery's exceptions
and PE, and sets C1 (R300 (c)). -/
theorem deliverTrans_spec (s : State) (k : Fin 8) (v : Bool × Mag) (up : Bool) :
    let d := deliver s.cw s.params.tinyBefore v.1 v.2 64 s.rc
    let t := s.deliverTrans k v up
    t.reg k = d.val ∧ s.Raised t (d.flags ++ [.pe]) ∧ t.sw.c1 = (if d.inexact then d.c1 else up)
      ∧ s.KeepsRegs t [k] ∧ t.sw.top = s.sw.top ∧ t.mem = s.mem := by
  intro d t
  obtain ⟨hr, _, hm, ht, _, _⟩ := raiseAll_keeps s d.flags
  have h : s.Raised ((s.raiseAll d.flags).raise .pe) (d.flags ++ [.pe]) :=
    Raised_trans (raiseAll_cw s d.flags) (raiseAll_raised s d.flags) (raise_raised _ .pe)
  refine ⟨?_, ?_, rfl, ?_, ht, hm⟩
  · rw [show t.reg k = _ from reg_putReg _ k k d.val, if_pos rfl]
  · obtain ⟨h1, h2, h3, h4⟩ := h
    exact ⟨fun x => by rw [← h1 x]; cases x <;> rfl, h2, h3, h4⟩
  · intro j hj
    rw [show t.reg j = _ from reg_putReg _ k j d.val, if_neg (by simpa using hj)]
    show (s.raiseAll d.flags).regs[j] = s.regs[j]
    rw [hr]

/-! ## RESET in the middle of a store (R460) -/

/-- Drawn bytes change no other byte of memory. -/
theorem drawBytes_keepsMemory (s : State) (as : List Nat) : s.KeepsMemory (s.drawBytes as) as := by
  induction as generalizing s with
  | nil => exact fun _ _ => rfl
  | cons a as ih =>
    intro b hb
    simp only [List.mem_cons, not_or] at hb
    rw [State.drawBytes, ih _ b hb.2]
    exact store_keepsMemory s.drew [a] [s.drawn 8] b (by simpa using hb.1)

/-- RESET leaves memory as it is but for the bytes that the instruction at CS:EIP was storing, and otherwise does what
it does between instructions (R460, R461). -/
theorem resetInStore_spec (s : State) :
    (∀ i rest, s.fetch = .ok (i, rest) → s.KeepsMemory s.resetInStore (s.storeInProgress i))
      ∧ s.resetInStore.cw = 0x037E ∧ s.resetInStore.sw = .reset ∧ s.resetInStore.empty = .replicate 8 true
      ∧ s.resetInStore.cr0 = State.reset.cr0 ∧ s.resetInStore.eip = State.reset.eip := by
  unfold State.resetInStore
  cases h : s.fetch with
  | error e => exact ⟨by simp, rfl, rfl, rfl, rfl, rfl⟩
  | ok p =>
    refine ⟨fun i rest hp => ?_, rfl, rfl, rfl, rfl, rfl⟩
    cases hp
    exact drawBytes_keepsMemory s _

/-! ## The ways an instruction can end (R425, R430 to R434) -/

/-- The state after the tests of a manner `k`, before its operand. -/
def State.waited (k : Manner) (s : State) : State := if k.waits then s.synced else s

/-- One of the two interrupts that come before an instruction is started. -/
def gated (k : Manner) (s t : State) : Prop :=
  ((s.cr0.em || s.cr0.ts) = true ∧ t = s.takeTrap .notAvailable)
    ∨ (k.waits = true ∧ s.sw.es = true ∧ t = s.synced.takeTrap .numericError)

/-- A register form takes interrupt 7 or 16, or runs its body. -/
theorem escReg_next {k : Manner} {i : Instr} {s t : State} {body : State → Result}
    (h : escReg k i s body = .next t) :
    gated k s t ∨ (s.Ready k.waits
      ∧ body (if k.records then (s.waited k).recordReg i else s.waited k) = .next t) := by
  rcases escStart_next h with h | h | h
  · exact .inl (.inl h)
  · exact .inl (.inr h)
  · exact .inr h

/-- A form with a memory operand takes interrupt 7 or 16, is denied the beginning of its operand, or goes on. -/
theorem escMem_next {k : Manner} {i : Instr} {m : MemOp} {write : Bool} {n : Nat} {s t : State}
    {go : Place → State → Result} (h : escMem k i m write n s go = .next t) :
    gated k s t
      ∨ (s.Ready k.waits ∧ ∃ v, s.firstFault (s.place i.prefixes m) write n = some v ∧ t = (s.waited k).takeTrap v)
      ∨ (s.Ready k.waits ∧ s.firstFault (s.place i.prefixes m) write n = none
          ∧ go (s.place i.prefixes m) (s.started k i m write n) = .next t) := by
  rcases escStart_next h with h | h | ⟨hr, h⟩
  · exact .inl (.inl h)
  · exact .inl (.inr h)
  · have hp : (if k.waits then s.synced else s).place i.prefixes m = s.place i.prefixes m := by
      cases k.waits <;> rfl
    have hf : (if k.waits then s.synced else s).firstFault (s.place i.prefixes m) write n
        = s.firstFault (s.place i.prefixes m) write n := by cases k.waits <;> rfl
    have ha : (if k.waits then s.synced else s).placeAddrs (s.place i.prefixes m) n
        = s.placeAddrs (s.place i.prefixes m) n := by cases k.waits <;> rfl
    simp only [hp, hf, ha] at h
    cases hv : s.firstFault (s.place i.prefixes m) write n with
    | some v =>
      rw [hv] at h
      exact .inr (.inl ⟨hr, v, rfl, (Host.Outcome.next.inj h).symm⟩)
    | none =>
      rw [hv] at h
      exact .inr (.inr ⟨hr, rfl, h⟩)

/-- A load that is started takes interrupt 9 or hands its operand's bytes to its body. -/
theorem escLoad_next {k : Manner} {i : Instr} {m : MemOp} {n : Nat} {s t : State}
    {body : List Byte → State → Result} (h : escLoad k i m n s body = .next t) :
    gated k s t
      ∨ (s.Ready k.waits ∧ ∃ v, s.firstFault (s.place i.prefixes m) false n = some v ∧ t = (s.waited k).takeTrap v)
      ∨ (s.Ready k.waits ∧ t = (s.started k i m false n).takeOverrun [])
      ∨ (s.Ready k.waits
          ∧ body (s.readPlace (s.place i.prefixes m) n) (s.started k i m false n) = .next t) := by
  obtain ⟨_, _, _, e⟩ := started_checks k i m false n s
  rcases escMem_next h with h | h | ⟨hr, _, h⟩
  · exact .inl h
  · exact .inr (.inl h)
  · split at h
    · exact .inr (.inr (.inl ⟨hr, (Host.Outcome.next.inj h).symm⟩))
    · exact .inr (.inr (.inr ⟨hr, by rw [← e]; exact h⟩))

/-- A store that is started stores nothing, takes interrupt 9, or stores its bytes at its operand's addresses. -/
theorem escStore_next {k : Manner} {i : Instr} {m : MemOp} {n : Nat} {s t : State} {body : State → Stored}
    (h : escStore k i m n s body = .next t) :
    gated k s t
      ∨ (s.Ready k.waits ∧ ∃ v, s.firstFault (s.place i.prefixes m) true n = some v ∧ t = (s.waited k).takeTrap v)
      ∨ (s.Ready k.waits ∧ ∃ u, body (s.started k i m true n) = (u, none) ∧ t = u.advance i)
      ∨ (s.Ready k.waits ∧ t = (s.started k i m true n).takeOverrun (s.reachable (s.place i.prefixes m) n))
      ∨ (s.Ready k.waits ∧ ∃ u bs, body (s.started k i m true n) = (u, some bs)
          ∧ t = (u.store (s.placeAddrs (s.place i.prefixes m) n) bs).advance i) := by
  obtain ⟨_, e1, e2, _⟩ := started_checks k i m true n s
  rcases escMem_next h with h | h | ⟨hr, _, h⟩
  · exact .inl h
  · exact .inr (.inl h)
  · split at h
    · rename_i u hb
      exact .inr (.inr (.inl ⟨hr, u, hb, (Host.Outcome.next.inj h).symm⟩))
    · rename_i u bs hb
      split at h
      · exact .inr (.inr (.inr (.inl ⟨hr, by rw [← e1]; exact (Host.Outcome.next.inj h).symm⟩)))
      · exact .inr (.inr (.inr (.inr ⟨hr, u, bs, hb, by rw [← e2]; exact (Host.Outcome.next.inj h).symm⟩)))

end Sys2Proof.Machine
end

