-- ==== Sys2Proof/Laws/PerInstr.lean ====
section
/-! SUPPORT. The families of lemmas that are proved constructor by constructor. -/

namespace Sys2Proof.Laws

/-- An instruction is what the opcode map gives for its own place in it (R98 to R104, R110): the map the encoder reads
and the map the decoder reads agree on its row. -/
def encodingRow.Statement (i : Instr) : Prop := Instr.ofForm i.prefixes i.form = i

theorem encodingRow.faddM32 (p : List Prefix) (m : MemOp) : encodingRow.Statement (.faddM32 p m) := rfl
theorem encodingRow.fmulM32 (p : List Prefix) (m : MemOp) : encodingRow.Statement (.fmulM32 p m) := rfl
theorem encodingRow.fcomM32 (p : List Prefix) (m : MemOp) : encodingRow.Statement (.fcomM32 p m) := rfl
theorem encodingRow.fcompM32 (p : List Prefix) (m : MemOp) : encodingRow.Statement (.fcompM32 p m) := rfl
theorem encodingRow.fsubM32 (p : List Prefix) (m : MemOp) : encodingRow.Statement (.fsubM32 p m) := rfl
theorem encodingRow.fsubrM32 (p : List Prefix) (m : MemOp) : encodingRow.Statement (.fsubrM32 p m) := rfl
theorem encodingRow.fdivM32 (p : List Prefix) (m : MemOp) : encodingRow.Statement (.fdivM32 p m) := rfl
theorem encodingRow.fdivrM32 (p : List Prefix) (m : MemOp) : encodingRow.Statement (.fdivrM32 p m) := rfl
theorem encodingRow.faddStSti (p : List Prefix) (i : Fin 8) : encodingRow.Statement (.faddStSti p i) := by
  exact rfl
theorem encodingRow.fmulStSti (p : List Prefix) (i : Fin 8) : encodingRow.Statement (.fmulStSti p i) := by
  exact rfl
theorem encodingRow.fcomSti (p : List Prefix) (i : Fin 8) : encodingRow.Statement (.fcomSti p i) := by
  exact rfl
theorem encodingRow.fcompSti (p : List Prefix) (i : Fin 8) : encodingRow.Statement (.fcompSti p i) := by
  exact rfl
theorem encodingRow.fsubStSti (p : List Prefix) (i : Fin 8) : encodingRow.Statement (.fsubStSti p i) := by
  exact rfl
theorem encodingRow.fsubrStSti (p : List Prefix) (i : Fin 8) : encodingRow.Statement (.fsubrStSti p i) := by
  exact rfl
theorem encodingRow.fdivStSti (p : List Prefix) (i : Fin 8) : encodingRow.Statement (.fdivStSti p i) := by
  exact rfl
theorem encodingRow.fdivrStSti (p : List Prefix) (i : Fin 8) : encodingRow.Statement (.fdivrStSti p i) := by
  exact rfl
theorem encodingRow.fldM32 (p : List Prefix) (m : MemOp) : encodingRow.Statement (.fldM32 p m) := rfl
theorem encodingRow.reservedD9Mem1 (p : List Prefix) (m : MemOp) : encodingRow.Statement (.reservedD9Mem1 p m) := rfl
theorem encodingRow.fstM32 (p : List Prefix) (m : MemOp) : encodingRow.Statement (.fstM32 p m) := rfl
theorem encodingRow.fstpM32 (p : List Prefix) (m : MemOp) : encodingRow.Statement (.fstpM32 p m) := rfl
theorem encodingRow.fldenv (p : List Prefix) (m : MemOp) : encodingRow.Statement (.fldenv p m) := rfl
theorem encodingRow.fldcw (p : List Prefix) (m : MemOp) : encodingRow.Statement (.fldcw p m) := rfl
theorem encodingRow.fnstenv (p : List Prefix) (m : MemOp) : encodingRow.Statement (.fnstenv p m) := rfl
theorem encodingRow.fnstcw (p : List Prefix) (m : MemOp) : encodingRow.Statement (.fnstcw p m) := rfl
theorem encodingRow.fldSti (p : List Prefix) (i : Fin 8) : encodingRow.Statement (.fldSti p i) := by
  exact rfl
theorem encodingRow.fxch (p : List Prefix) (i : Fin 8) : encodingRow.Statement (.fxch p i) := by
  exact rfl
theorem encodingRow.fnop (p : List Prefix) : encodingRow.Statement (.fnop p) := rfl
theorem encodingRow.reservedD9D1 (p : List Prefix) : encodingRow.Statement (.reservedD9D1 p) := rfl
theorem encodingRow.reservedD9D2 (p : List Prefix) (x : Fin 2) : encodingRow.Statement (.reservedD9D2 p x) := by
  match x with
  | 0 => rfl | 1 => rfl
theorem encodingRow.reservedD9D4 (p : List Prefix) (x : Fin 4) : encodingRow.Statement (.reservedD9D4 p x) := by
  match x with
  | 0 => rfl | 1 => rfl | 2 => rfl | 3 => rfl
theorem encodingRow.reservedD9D8 (p : List Prefix) (x : Fin 8) : encodingRow.Statement (.reservedD9D8 p x) := by
  match x with
  | 0 => rfl | 1 => rfl | 2 => rfl | 3 => rfl | 4 => rfl | 5 => rfl | 6 => rfl | 7 => rfl
theorem encodingRow.fchs (p : List Prefix) : encodingRow.Statement (.fchs p) := rfl
theorem encodingRow.fabs (p : List Prefix) : encodingRow.Statement (.fabs p) := rfl
theorem encodingRow.reservedD9E2 (p : List Prefix) : encodingRow.Statement (.reservedD9E2 p) := rfl
theorem encodingRow.reservedD9E3 (p : List Prefix) : encodingRow.Statement (.reservedD9E3 p) := rfl
theorem encodingRow.ftst (p : List Prefix) : encodingRow.Statement (.ftst p) := rfl
theorem encodingRow.fxam (p : List Prefix) : encodingRow.Statement (.fxam p) := rfl
theorem encodingRow.reservedD9E6 (p : List Prefix) : encodingRow.Statement (.reservedD9E6 p) := rfl
theorem encodingRow.reservedD9E7 (p : List Prefix) : encodingRow.Statement (.reservedD9E7 p) := rfl
theorem encodingRow.fld1 (p : List Prefix) : encodingRow.Statement (.fld1 p) := rfl
theorem encodingRow.fldl2t (p : List Prefix) : encodingRow.Statement (.fldl2t p) := rfl
theorem encodingRow.fldl2e (p : List Prefix) : encodingRow.Statement (.fldl2e p) := rfl
theorem encodingRow.fldpi (p : List Prefix) : encodingRow.Statement (.fldpi p) := rfl
theorem encodingRow.fldlg2 (p : List Prefix) : encodingRow.Statement (.fldlg2 p) := rfl
theorem encodingRow.fldln2 (p : List Prefix) : encodingRow.Statement (.fldln2 p) := rfl
theorem encodingRow.fldz (p : List Prefix) : encodingRow.Statement (.fldz p) := rfl
theorem encodingRow.reservedD9EF (p : List Prefix) : encodingRow.Statement (.reservedD9EF p) := rfl
theorem encodingRow.f2xm1 (p : List Prefix) : encodingRow.Statement (.f2xm1 p) := rfl
theorem encodingRow.fyl2x (p : List Prefix) : encodingRow.Statement (.fyl2x p) := rfl
theorem encodingRow.fptan (p : List Prefix) : encodingRow.Statement (.fptan p) := rfl
theorem encodingRow.fpatan (p : List Prefix) : encodingRow.Statement (.fpatan p) := rfl
theorem encodingRow.fxtract (p : List Prefix) : encodingRow.Statement (.fxtract p) := rfl
theorem encodingRow.fprem1 (p : List Prefix) : encodingRow.Statement (.fprem1 p) := rfl
theorem encodingRow.fdecstp (p : List Prefix) : encodingRow.Statement (.fdecstp p) := rfl
theorem encodingRow.fincstp (p : List Prefix) : encodingRow.Statement (.fincstp p) := rfl
theorem encodingRow.fprem (p : List Prefix) : encodingRow.Statement (.fprem p) := rfl
theorem encodingRow.fyl2xp1 (p : List Prefix) : encodingRow.Statement (.fyl2xp1 p) := rfl
theorem encodingRow.fsqrt (p : List Prefix) : encodingRow.Statement (.fsqrt p) := rfl
theorem encodingRow.fsincos (p : List Prefix) : encodingRow.Statement (.fsincos p) := rfl
theorem encodingRow.frndint (p : List Prefix) : encodingRow.Statement (.frndint p) := rfl
theorem encodingRow.fscale (p : List Prefix) : encodingRow.Statement (.fscale p) := rfl
theorem encodingRow.fsin (p : List Prefix) : encodingRow.Statement (.fsin p) := rfl
theorem encodingRow.fcos (p : List Prefix) : encodingRow.Statement (.fcos p) := rfl
theorem encodingRow.fiaddI32 (p : List Prefix) (m : MemOp) : encodingRow.Statement (.fiaddI32 p m) := rfl
theorem encodingRow.fimulI32 (p : List Prefix) (m : MemOp) : encodingRow.Statement (.fimulI32 p m) := rfl
theorem encodingRow.ficomI32 (p : List Prefix) (m : MemOp) : encodingRow.Statement (.ficomI32 p m) := rfl
theorem encodingRow.ficompI32 (p : List Prefix) (m : MemOp) : encodingRow.Statement (.ficompI32 p m) := rfl
theorem encodingRow.fisubI32 (p : List Prefix) (m : MemOp) : encodingRow.Statement (.fisubI32 p m) := rfl
theorem encodingRow.fisubrI32 (p : List Prefix) (m : MemOp) : encodingRow.Statement (.fisubrI32 p m) := rfl
theorem encodingRow.fidivI32 (p : List Prefix) (m : MemOp) : encodingRow.Statement (.fidivI32 p m) := rfl
theorem encodingRow.fidivrI32 (p : List Prefix) (m : MemOp) : encodingRow.Statement (.fidivrI32 p m) := rfl
theorem encodingRow.reservedDAC0 (p : List Prefix) (x : Fin 32) : encodingRow.Statement (.reservedDAC0 p x) := by
  fin_cases x <;> rfl
theorem encodingRow.reservedDAE0 (p : List Prefix) (x : Fin 8) : encodingRow.Statement (.reservedDAE0 p x) := by
  match x with
  | 0 => rfl | 1 => rfl | 2 => rfl | 3 => rfl | 4 => rfl | 5 => rfl | 6 => rfl | 7 => rfl
theorem encodingRow.reservedDAE8 (p : List Prefix) : encodingRow.Statement (.reservedDAE8 p) := rfl
theorem encodingRow.fucompp (p : List Prefix) : encodingRow.Statement (.fucompp p) := rfl
theorem encodingRow.reservedDAEA (p : List Prefix) (x : Fin 2) : encodingRow.Statement (.reservedDAEA p x) := by
  match x with
  | 0 => rfl | 1 => rfl
theorem encodingRow.reservedDAEC (p : List Prefix) (x : Fin 4) : encodingRow.Statement (.reservedDAEC p x) := by
  match x with
  | 0 => rfl | 1 => rfl | 2 => rfl | 3 => rfl
theorem encodingRow.reservedDAF0 (p : List Prefix) (x : Fin 16) : encodingRow.Statement (.reservedDAF0 p x) := by
  fin_cases x <;> rfl
theorem encodingRow.fildI32 (p : List Prefix) (m : MemOp) : encodingRow.Statement (.fildI32 p m) := rfl
theorem encodingRow.reservedDBMem1 (p : List Prefix) (m : MemOp) : encodingRow.Statement (.reservedDBMem1 p m) := rfl
theorem encodingRow.fistI32 (p : List Prefix) (m : MemOp) : encodingRow.Statement (.fistI32 p m) := rfl
theorem encodingRow.fistpI32 (p : List Prefix) (m : MemOp) : encodingRow.Statement (.fistpI32 p m) := rfl
theorem encodingRow.reservedDBMem4 (p : List Prefix) (m : MemOp) : encodingRow.Statement (.reservedDBMem4 p m) := rfl
theorem encodingRow.fldM80 (p : List Prefix) (m : MemOp) : encodingRow.Statement (.fldM80 p m) := rfl
theorem encodingRow.reservedDBMem6 (p : List Prefix) (m : MemOp) : encodingRow.Statement (.reservedDBMem6 p m) := rfl
theorem encodingRow.fstpM80 (p : List Prefix) (m : MemOp) : encodingRow.Statement (.fstpM80 p m) := rfl
theorem encodingRow.reservedDBC0 (p : List Prefix) (x : Fin 32) : encodingRow.Statement (.reservedDBC0 p x) := by
  fin_cases x <;> rfl
theorem encodingRow.feni (p : List Prefix) : encodingRow.Statement (.feni p) := rfl
theorem encodingRow.fdisi (p : List Prefix) : encodingRow.Statement (.fdisi p) := rfl
theorem encodingRow.fnclex (p : List Prefix) : encodingRow.Statement (.fnclex p) := rfl
theorem encodingRow.fninit (p : List Prefix) : encodingRow.Statement (.fninit p) := rfl
theorem encodingRow.fsetpm (p : List Prefix) : encodingRow.Statement (.fsetpm p) := rfl
theorem encodingRow.reservedDBE5 (p : List Prefix) : encodingRow.Statement (.reservedDBE5 p) := rfl
theorem encodingRow.reservedDBE6 (p : List Prefix) (x : Fin 2) : encodingRow.Statement (.reservedDBE6 p x) := by
  match x with
  | 0 => rfl | 1 => rfl
theorem encodingRow.reservedDBE8 (p : List Prefix) (x : Fin 8) : encodingRow.Statement (.reservedDBE8 p x) := by
  match x with
  | 0 => rfl | 1 => rfl | 2 => rfl | 3 => rfl | 4 => rfl | 5 => rfl | 6 => rfl | 7 => rfl
theorem encodingRow.reservedDBF0 (p : List Prefix) (x : Fin 16) : encodingRow.Statement (.reservedDBF0 p x) := by
  fin_cases x <;> rfl
theorem encodingRow.faddM64 (p : List Prefix) (m : MemOp) : encodingRow.Statement (.faddM64 p m) := rfl
theorem encodingRow.fmulM64 (p : List Prefix) (m : MemOp) : encodingRow.Statement (.fmulM64 p m) := rfl
theorem encodingRow.fcomM64 (p : List Prefix) (m : MemOp) : encodingRow.Statement (.fcomM64 p m) := rfl
theorem encodingRow.fcompM64 (p : List Prefix) (m : MemOp) : encodingRow.Statement (.fcompM64 p m) := rfl
theorem encodingRow.fsubM64 (p : List Prefix) (m : MemOp) : encodingRow.Statement (.fsubM64 p m) := rfl
theorem encodingRow.fsubrM64 (p : List Prefix) (m : MemOp) : encodingRow.Statement (.fsubrM64 p m) := rfl
theorem encodingRow.fdivM64 (p : List Prefix) (m : MemOp) : encodingRow.Statement (.fdivM64 p m) := rfl
theorem encodingRow.fdivrM64 (p : List Prefix) (m : MemOp) : encodingRow.Statement (.fdivrM64 p m) := rfl
theorem encodingRow.faddStiSt (p : List Prefix) (i : Fin 8) : encodingRow.Statement (.faddStiSt p i) := by
  exact rfl
theorem encodingRow.fmulStiSt (p : List Prefix) (i : Fin 8) : encodingRow.Statement (.fmulStiSt p i) := by
  exact rfl
theorem encodingRow.reservedDCD0 (p : List Prefix) (x : Fin 16) : encodingRow.Statement (.reservedDCD0 p x) := by
  fin_cases x <;> rfl
theorem encodingRow.fsubrStiSt (p : List Prefix) (i : Fin 8) : encodingRow.Statement (.fsubrStiSt p i) := by
  exact rfl
theorem encodingRow.fsubStiSt (p : List Prefix) (i : Fin 8) : encodingRow.Statement (.fsubStiSt p i) := by
  exact rfl
theorem encodingRow.fdivrStiSt (p : List Prefix) (i : Fin 8) : encodingRow.Statement (.fdivrStiSt p i) := by
  exact rfl
theorem encodingRow.fdivStiSt (p : List Prefix) (i : Fin 8) : encodingRow.Statement (.fdivStiSt p i) := by
  exact rfl
theorem encodingRow.fldM64 (p : List Prefix) (m : MemOp) : encodingRow.Statement (.fldM64 p m) := rfl
theorem encodingRow.reservedDDMem1 (p : List Prefix) (m : MemOp) : encodingRow.Statement (.reservedDDMem1 p m) := rfl
theorem encodingRow.fstM64 (p : List Prefix) (m : MemOp) : encodingRow.Statement (.fstM64 p m) := rfl
theorem encodingRow.fstpM64 (p : List Prefix) (m : MemOp) : encodingRow.Statement (.fstpM64 p m) := rfl
theorem encodingRow.frstor (p : List Prefix) (m : MemOp) : encodingRow.Statement (.frstor p m) := rfl
theorem encodingRow.reservedDDMem5 (p : List Prefix) (m : MemOp) : encodingRow.Statement (.reservedDDMem5 p m) := rfl
theorem encodingRow.fnsave (p : List Prefix) (m : MemOp) : encodingRow.Statement (.fnsave p m) := rfl
theorem encodingRow.fnstswM16 (p : List Prefix) (m : MemOp) : encodingRow.Statement (.fnstswM16 p m) := rfl
theorem encodingRow.ffree (p : List Prefix) (i : Fin 8) : encodingRow.Statement (.ffree p i) := by
  exact rfl
theorem encodingRow.reservedDDC8 (p : List Prefix) (x : Fin 8) : encodingRow.Statement (.reservedDDC8 p x) := by
  match x with
  | 0 => rfl | 1 => rfl | 2 => rfl | 3 => rfl | 4 => rfl | 5 => rfl | 6 => rfl | 7 => rfl
theorem encodingRow.fstSti (p : List Prefix) (i : Fin 8) : encodingRow.Statement (.fstSti p i) := by
  exact rfl
theorem encodingRow.fstpSti (p : List Prefix) (i : Fin 8) : encodingRow.Statement (.fstpSti p i) := by
  exact rfl
theorem encodingRow.fucomSti (p : List Prefix) (i : Fin 8) : encodingRow.Statement (.fucomSti p i) := by
  exact rfl
theorem encodingRow.fucompSti (p : List Prefix) (i : Fin 8) : encodingRow.Statement (.fucompSti p i) := by
  exact rfl
theorem encodingRow.reservedDDF0 (p : List Prefix) (x : Fin 16) : encodingRow.Statement (.reservedDDF0 p x) := by
  fin_cases x <;> rfl
theorem encodingRow.fiaddI16 (p : List Prefix) (m : MemOp) : encodingRow.Statement (.fiaddI16 p m) := rfl
theorem encodingRow.fimulI16 (p : List Prefix) (m : MemOp) : encodingRow.Statement (.fimulI16 p m) := rfl
theorem encodingRow.ficomI16 (p : List Prefix) (m : MemOp) : encodingRow.Statement (.ficomI16 p m) := rfl
theorem encodingRow.ficompI16 (p : List Prefix) (m : MemOp) : encodingRow.Statement (.ficompI16 p m) := rfl
theorem encodingRow.fisubI16 (p : List Prefix) (m : MemOp) : encodingRow.Statement (.fisubI16 p m) := rfl
theorem encodingRow.fisubrI16 (p : List Prefix) (m : MemOp) : encodingRow.Statement (.fisubrI16 p m) := rfl
theorem encodingRow.fidivI16 (p : List Prefix) (m : MemOp) : encodingRow.Statement (.fidivI16 p m) := rfl
theorem encodingRow.fidivrI16 (p : List Prefix) (m : MemOp) : encodingRow.Statement (.fidivrI16 p m) := rfl
theorem encodingRow.faddp (p : List Prefix) (i : Fin 8) : encodingRow.Statement (.faddp p i) := by
  exact rfl
theorem encodingRow.fmulp (p : List Prefix) (i : Fin 8) : encodingRow.Statement (.fmulp p i) := by
  exact rfl
theorem encodingRow.reservedDED0 (p : List Prefix) (x : Fin 8) : encodingRow.Statement (.reservedDED0 p x) := by
  match x with
  | 0 => rfl | 1 => rfl | 2 => rfl | 3 => rfl | 4 => rfl | 5 => rfl | 6 => rfl | 7 => rfl
theorem encodingRow.reservedDED8 (p : List Prefix) : encodingRow.Statement (.reservedDED8 p) := rfl
theorem encodingRow.fcompp (p : List Prefix) : encodingRow.Statement (.fcompp p) := rfl
theorem encodingRow.reservedDEDA (p : List Prefix) (x : Fin 2) : encodingRow.Statement (.reservedDEDA p x) := by
  match x with
  | 0 => rfl | 1 => rfl
theorem encodingRow.reservedDEDC (p : List Prefix) (x : Fin 4) : encodingRow.Statement (.reservedDEDC p x) := by
  match x with
  | 0 => rfl | 1 => rfl | 2 => rfl | 3 => rfl
theorem encodingRow.fsubrp (p : List Prefix) (i : Fin 8) : encodingRow.Statement (.fsubrp p i) := by
  exact rfl
theorem encodingRow.fsubp (p : List Prefix) (i : Fin 8) : encodingRow.Statement (.fsubp p i) := by
  exact rfl
theorem encodingRow.fdivrp (p : List Prefix) (i : Fin 8) : encodingRow.Statement (.fdivrp p i) := by
  exact rfl
theorem encodingRow.fdivp (p : List Prefix) (i : Fin 8) : encodingRow.Statement (.fdivp p i) := by
  exact rfl
theorem encodingRow.fildI16 (p : List Prefix) (m : MemOp) : encodingRow.Statement (.fildI16 p m) := rfl
theorem encodingRow.reservedDFMem1 (p : List Prefix) (m : MemOp) : encodingRow.Statement (.reservedDFMem1 p m) := rfl
theorem encodingRow.fistI16 (p : List Prefix) (m : MemOp) : encodingRow.Statement (.fistI16 p m) := rfl
theorem encodingRow.fistpI16 (p : List Prefix) (m : MemOp) : encodingRow.Statement (.fistpI16 p m) := rfl
theorem encodingRow.fbld (p : List Prefix) (m : MemOp) : encodingRow.Statement (.fbld p m) := rfl
theorem encodingRow.fildI64 (p : List Prefix) (m : MemOp) : encodingRow.Statement (.fildI64 p m) := rfl
theorem encodingRow.fbstp (p : List Prefix) (m : MemOp) : encodingRow.Statement (.fbstp p m) := rfl
theorem encodingRow.fistpI64 (p : List Prefix) (m : MemOp) : encodingRow.Statement (.fistpI64 p m) := rfl
theorem encodingRow.reservedDFC0 (p : List Prefix) (x : Fin 32) : encodingRow.Statement (.reservedDFC0 p x) := by
  fin_cases x <;> rfl
theorem encodingRow.fnstswAx (p : List Prefix) : encodingRow.Statement (.fnstswAx p) := rfl
theorem encodingRow.reservedDFE1 (p : List Prefix) : encodingRow.Statement (.reservedDFE1 p) := rfl
theorem encodingRow.reservedDFE2 (p : List Prefix) (x : Fin 2) : encodingRow.Statement (.reservedDFE2 p x) := by
  match x with
  | 0 => rfl | 1 => rfl
theorem encodingRow.reservedDFE4 (p : List Prefix) (x : Fin 4) : encodingRow.Statement (.reservedDFE4 p x) := by
  match x with
  | 0 => rfl | 1 => rfl | 2 => rfl | 3 => rfl
theorem encodingRow.reservedDFE8 (p : List Prefix) (x : Fin 8) : encodingRow.Statement (.reservedDFE8 p x) := by
  match x with
  | 0 => rfl | 1 => rfl | 2 => rfl | 3 => rfl | 4 => rfl | 5 => rfl | 6 => rfl | 7 => rfl
theorem encodingRow.reservedDFF0 (p : List Prefix) (x : Fin 16) : encodingRow.Statement (.reservedDFF0 p x) := by
  fin_cases x <;> rfl
theorem encodingRow.wait (p : List Prefix) : encodingRow.Statement (.wait p) := rfl

end Sys2Proof.Laws
end

