-- ==== Sys2Proof/Tests/Slice0.lean ====
section
/-! SUPPORT. Tests: ill-formed terms that WellFormed refuses, words written out from the spec's encodings, the vectors of
spec/95_test_vectors.md that the rules fix exactly, one step each, and for every statement with hypotheses a state and
operands that meet them. -/

namespace Sys2Proof.Machine

/-! ## The states of the tests -/

/-- Values pushed, the first of the list last. -/
def State.stack (s : State) (vs : List Ext) : State := vs.foldr (fun v t => t.push v) s

/-- Another control word, ES and B by R18. -/
def State.control (s : State) (cw : Word16) : State := s.loadWords cw s.sw

/-- A little-endian value of `n` bytes at address 1000H. -/
def State.word (s : State) (n w : Nat) : State :=
  { s with mem := writeBytes s.mem ((List.range n).map (0x1000 + ·)) (leBytes n w) }

/-- The little-endian value of `n` bytes at offset `off` from address 1000H. -/
def State.imageAt (s : State) (off n : Nat) : Nat :=
  leNat (readBytes s.mem ((List.range n).map (0x1000 + off + ·)))

/-- The value at address 1000H. -/
def State.wordAt (s : State) (n : Nat) : Nat := s.imageAt 0 n

/-- The status and control words that RESET leaves: ERROR# active. -/
def State.pending (s : State) : State := { s with cw := 0x037E, sw := .reset }

end Sys2Proof.Machine

namespace Sys2Proof.Tests

open Sys2Proof.Machine

/-- A register value as the vectors write it: sign, exponent, significand. -/
def ext (s : Nat) (e : BitVec 15) (m : BitVec 64) : Ext := ⟨s == 1, e, m⟩

/-- A flat 32-bit segment. -/
def flat : Segment :=
  { sel := 8, base := 0, limit := 0xFFFFFFFF, big := true, expandDown := false, readable := true, writable := true }

/-- INIT of spec/95_test_vectors.md: the state after FNINIT, protected mode, 32-bit sizes, EM and TS clear. -/
def init : State :=
  { State.reset with
    cw := 0x037F, sw := .ofBits 0, mode := .prot, eip := 0x100, seg := ⟨flat, flat, flat, flat, flat, flat⟩ }

/-- SW without the bits the vectors mask, C3, C2 and C0. -/
def swOf (s : State) : Word16 := { s.sw with c3 := false, c2 := false, c0 := false }.toBits

/-- The bytes decode to one instruction, and its execution goes on in a state that passes the check. -/
def gives (bs : List Byte) (s : State) (p : State → Bool) : Bool :=
  match decode true bs with
  | .ok (i, []) =>
    match exec i s with
    | .next t => p t
    | _ => false
  | _ => false

set_option Elab.async false

/-! ## Vectors of spec/95_test_vectors.md (V-… and S…) and worked values of the cited rules, one instruction each -/

theorem test_VD1_fld_single :
    gives [0xD9, 0x05, 0x00, 0x10, 0x00, 0x00] ((init).word 4 0x43322000)
      (fun t => t.st 0 == ext 0 0x4006 0xB220000000000000 && t.tagWord == 0x3FFF && swOf t == 0x3800) := by
  decide +kernel
theorem test_VD5_fld_snan_unmasked :
    gives [0xD9, 0x05, 0x00, 0x10, 0x00, 0x00] (((init).control 0x037E).word 4 0x7FA00000)
      (fun t => t.tagWord == 0xFFFF && swOf t == 0x8081) := by
  decide +kernel
/-- R20, R133: C1 of FLD is 0 though an unmasked exception ends it. -/
theorem test_R20_fld_snan_unmasked_clears_c1 :
    gives [0xD9, 0x05, 0x00, 0x10, 0x00, 0x00] ({ (init.control 0x037E).word 4 0x7FA00000 with sw := .ofBits 0x0200 })
      (fun t => !t.sw.c1 && t.sw.ie && t.sw.top == 0) := by
  decide +kernel
/-- R20, R133: C1 of FXTRACT is 0 though an unmasked exception ends it. -/
theorem test_R20_fxtract_zero_unmasked_clears_c1 :
    gives [0xD9, 0xF4] ({ (init.stack [ext 0 0 0]).control 0x037B with sw := .ofBits 0x3A00 })
      (fun t => !t.sw.c1 && t.sw.ze && t.sw.top == 7 && t.st 0 == ext 0 0 0) := by
  decide +kernel
theorem test_VF10_fld_double :
    gives [0xDD, 0x05, 0x00, 0x10, 0x00, 0x00] ((init).word 8 0x7FEFFFFFFFFFFFFF)
      (fun t => t.st 0 == ext 0 0x43FE 0xFFFFFFFFFFFFF800 && swOf t == 0x3800) := by
  decide +kernel
theorem test_VF9_fld_double_denormal :
    gives [0xDD, 0x05, 0x00, 0x10, 0x00, 0x00] ((init).word 8 0x1)
      (fun t => t.st 0 == ext 0 0x3BCD 0x8000000000000000 && swOf t == 0x3802) := by
  decide +kernel
theorem test_VD6_fld_extended_keeps_snan :
    gives [0xDB, 0x2D, 0x00, 0x10, 0x00, 0x00] ((init).word 10 0x7FFF8000000000000001)
      (fun t => t.st 0 == ext 0 0x7FFF 0x8000000000000001 && swOf t == 0x3800) := by
  decide +kernel
theorem test_VD7_fld_sti_overflow :
    gives [0xD9, 0xC0] (init.stack [ext 0 0x3FFF 0x8000000000000000, ext 0 0x3FFF 0x8000000000000000, ext 0 0x3FFF 0x8000000000000000, ext 0 0x3FFF 0x8000000000000000, ext 0 0x3FFF 0x8000000000000000, ext 0 0x3FFF 0x8000000000000000, ext 0 0x3FFF 0x8000000000000000, ext 0 0x3FFF 0x8000000000000000])
      (fun t => t.st 0 == indefinite && swOf t == 0x3A41) := by
  decide +kernel
theorem test_VD9_fld_sti_underflow :
    gives [0xD9, 0xC0] (init)
      (fun t => t.st 0 == indefinite && swOf t == 0x3841) := by
  decide +kernel
theorem test_VD10_fst_single :
    gives [0xD9, 0x15, 0x00, 0x10, 0x00, 0x00] (init.stack [ext 0 0x3FFD 0xAAAAAAAAAAAAAAAB])
      (fun t => t.wordAt 4 == 0x3EAAAAAB && t.st 0 == ext 0 0x3FFD 0xAAAAAAAAAAAAAAAB && swOf t == 0x3A20) := by
  decide +kernel
theorem test_VD13_fst_single_denormal :
    gives [0xD9, 0x15, 0x00, 0x10, 0x00, 0x00] (init.stack [ext 0 0x3F7E 0xAE00000000000000])
      (fun t => t.wordAt 4 == 0x0015C000 && swOf t == 0x3800) := by
  decide +kernel
theorem test_VD12_fst_double :
    gives [0xDD, 0x15, 0x00, 0x10, 0x00, 0x00] (init.stack [ext 0 0x3FFD 0xAAAAAAAAAAAAAAAB])
      (fun t => t.wordAt 8 == 0x3FD5555555555555 && swOf t == 0x3820) := by
  decide +kernel
theorem test_VD17_fstp_single_overflow :
    gives [0xD9, 0x1D, 0x00, 0x10, 0x00, 0x00] (init.stack [ext 0 0x40C7 0x8000000000000000])
      (fun t => t.wordAt 4 == 0x7F800000 && t.tagWord == 0xFFFF && swOf t == 0x0228) := by
  decide +kernel
theorem test_VD16_fstp_single_unmasked_underflow :
    gives [0xD9, 0x1D, 0x00, 0x10, 0x00, 0x00] ((init.stack [ext 0 0x3F69 0x8000000000000000]).control 0x036F)
      (fun t => t.mem == [] && t.stEmpty 0 == false && swOf t == 0xB890) := by
  decide +kernel
theorem test_VD23_fstp_double_underflow :
    gives [0xDD, 0x1D, 0x00, 0x10, 0x00, 0x00] (init)
      (fun t => t.wordAt 8 == 0xFFF8000000000000 && swOf t == 0x0841) := by
  decide +kernel
theorem test_S15_fstp_extended :
    gives [0xDB, 0x3D, 0x00, 0x10, 0x00, 0x00] (init.stack [ext 1 0x4005 0xFC00000000000000])
      (fun t => t.wordAt 10 == 0xC005FC00000000000000 && swOf t == 0x0000) := by
  decide +kernel
theorem test_VD24_fstp_sti :
    gives [0xDD, 0xD9] (init.stack [ext 0 0x4000 0x8000000000000000, ext 0 0x3FFF 0x8000000000000000])
      (fun t => t.st 0 == ext 0 0x4000 0x8000000000000000 && t.stEmpty 1 && swOf t == 0x3800) := by
  decide +kernel
theorem test_R203_fst_sti :
    gives [0xDD, 0xD1] (init.stack [ext 0 0x4000 0x8000000000000000, ext 0 0x3FFF 0x8000000000000000])
      (fun t => t.st 0 == ext 0 0x4000 0x8000000000000000 && t.st 1 == ext 0 0x4000 0x8000000000000000 && swOf t == 0x3000) := by
  decide +kernel
theorem test_VD26_fxch :
    gives [0xD9, 0xC9] (init.stack [ext 0 0x4000 0x8000000000000000, ext 0 0x3FFF 0x8000000000000000])
      (fun t => t.st 0 == ext 0 0x3FFF 0x8000000000000000 && t.st 1 == ext 0 0x4000 0x8000000000000000 && swOf t == 0x3000) := by
  decide +kernel
theorem test_VD27_fxch_empty :
    gives [0xD9, 0xC9] (init.stack [ext 0 0x4000 0x8000000000000000])
      (fun t => t.st 0 == indefinite && t.st 1 == ext 0 0x4000 0x8000000000000000 && !t.stEmpty 1 && swOf t == 0x3841) := by
  decide +kernel
theorem test_VD28_fild_word :
    gives [0xDF, 0x05, 0x00, 0x10, 0x00, 0x00] ((init).word 2 0xFF82)
      (fun t => t.st 0 == ext 1 0x4005 0xFC00000000000000 && swOf t == 0x3800) := by
  decide +kernel
theorem test_VF13_fild_short :
    gives [0xDB, 0x05, 0x00, 0x10, 0x00, 0x00] ((init).word 4 0x7FFFFFFF)
      (fun t => t.st 0 == ext 0 0x401D 0xFFFFFFFE00000000) := by
  decide +kernel
theorem test_VD29_fild_long :
    gives [0xDF, 0x2D, 0x00, 0x10, 0x00, 0x00] ((init).word 8 0x8000000000000000)
      (fun t => t.st 0 == ext 1 0x403E 0x8000000000000000) := by
  decide +kernel
theorem test_VF15_fild_long :
    gives [0xDF, 0x2D, 0x00, 0x10, 0x00, 0x00] ((init).word 8 0x7FFFFFFFFFFFFFFF)
      (fun t => t.st 0 == ext 0 0x403D 0xFFFFFFFFFFFFFFFE) := by
  decide +kernel
theorem test_VD31_fist_word :
    gives [0xDF, 0x15, 0x00, 0x10, 0x00, 0x00] (init.stack [ext 0 0x4000 0xE000000000000000])
      (fun t => t.wordAt 2 == 0x0004 && swOf t == 0x3A20) := by
  decide +kernel
theorem test_VD32_fist_word_out_of_range :
    gives [0xDF, 0x15, 0x00, 0x10, 0x00, 0x00] (init.stack [ext 0 0x400D 0xFFFF000000000000])
      (fun t => t.wordAt 2 == 0x8000 && swOf t == 0x3801) := by
  decide +kernel
theorem test_VD35_fist_short :
    gives [0xDB, 0x15, 0x00, 0x10, 0x00, 0x00] (init.stack [ext 1 0x0000 0x0])
      (fun t => t.mem == [] && swOf t == 0x3800) := by
  decide +kernel
theorem test_VD34_fistp_word :
    gives [0xDF, 0x1D, 0x00, 0x10, 0x00, 0x00] (init.stack [ext 1 0x400E 0x8000800000000000])
      (fun t => t.wordAt 2 == 0x8000 && swOf t == 0x0020) := by
  decide +kernel
theorem test_R209_fistp_short :
    gives [0xDB, 0x1D, 0x00, 0x10, 0x00, 0x00] (init.stack [ext 1 0x4005 0xFC00000000000000])
      (fun t => t.wordAt 4 == 0xFFFFFF82 && swOf t == 0x0000) := by
  decide +kernel
theorem test_VD36_fistp_long :
    gives [0xDF, 0x3D, 0x00, 0x10, 0x00, 0x00] (init.stack [ext 0 0x7FFF 0x8000000000000000])
      (fun t => t.wordAt 8 == 0x8000000000000000 && swOf t == 0x0001 && t.tagWord == 0xFFFF) := by
  decide +kernel
theorem test_VD37_fistp_long_unmasked :
    gives [0xDF, 0x3D, 0x00, 0x10, 0x00, 0x00] ((init.stack [ext 0 0x7FFF 0xC000000000000000]).control 0x037E)
      (fun t => t.mem == [] && swOf t == 0xB881) := by
  decide +kernel
theorem test_VD39_fbld :
    gives [0xDF, 0x25, 0x00, 0x10, 0x00, 0x00] ((init).word 10 0x125)
      (fun t => t.st 0 == ext 0 0x4005 0xFA00000000000000) := by
  decide +kernel
theorem test_VF18_fbld :
    gives [0xDF, 0x25, 0x00, 0x10, 0x00, 0x00] ((init).word 10 0x80999999999999999999)
      (fun t => t.st 0 == ext 1 0x403A 0xDE0B6B3A763FFFF0) := by
  decide +kernel
theorem test_VD40_fbstp :
    gives [0xDF, 0x35, 0x00, 0x10, 0x00, 0x00] (init.stack [ext 1 0x4002 0xC800000000000000])
      (fun t => t.wordAt 10 == 0x80000000000000000012 && swOf t == 0x0020) := by
  decide +kernel
theorem test_VD41_fbstp_out_of_range :
    gives [0xDF, 0x35, 0x00, 0x10, 0x00, 0x00] (init.stack [ext 0 0x403A 0xDE0B6B3A76400000])
      (fun t => swOf t == 0x0001 && t.tagWord == 0xFFFF) := by
  decide +kernel
theorem test_VA1_fadd_st_sti :
    gives [0xD8, 0xC1] (init.stack [ext 0 0x4000 0x8000000000000000, ext 0 0x3FFF 0x8000000000000000])
      (fun t => t.st 0 == ext 0 0x4000 0xC000000000000000 && t.st 1 == ext 0 0x3FFF 0x8000000000000000 && swOf t == 0x3000) := by
  decide +kernel
theorem test_VA17_fadd_infinities :
    gives [0xD8, 0xC1] (init.stack [ext 0 0x7FFF 0x8000000000000000, ext 1 0x7FFF 0x8000000000000000])
      (fun t => t.st 0 == indefinite && swOf t == 0x3001) := by
  decide +kernel
theorem test_VA48_fadd_single_denormal :
    gives [0xD8, 0x05, 0x00, 0x10, 0x00, 0x00] ((init.stack [ext 0 0x3FFF 0x8000000000000000]).word 4 0x1)
      (fun t => t.st 0 == ext 0 0x3FFF 0x8000000000000000 && swOf t == 0x3822) := by
  decide +kernel
theorem test_R231_fadd_double :
    gives [0xDC, 0x05, 0x00, 0x10, 0x00, 0x00] ((init.stack [ext 0 0x3FFF 0x8000000000000000]).word 8 0x3FF8000000000000)
      (fun t => t.st 0 == ext 0 0x4000 0xA000000000000000) := by
  decide +kernel
theorem test_S18_fadd_sti_st :
    gives [0xDC, 0xC3] (init.stack [ext 0 0x4000 0xA000000000000000, ext 0 0x0000 0x0, ext 0 0x0000 0x0, ext 0 0x0000 0x0])
      (fun t => t.st 3 == ext 0 0x4000 0xA000000000000000 && t.st 1 == ext 0 0x0000 0x0) := by
  decide +kernel
theorem test_VA50_faddp :
    gives [0xDE, 0xC1] (init.stack [ext 0 0x3FFF 0x8000000000000000, ext 0 0x4000 0x8000000000000000])
      (fun t => t.st 0 == ext 0 0x4000 0xC000000000000000 && swOf t == 0x3800) := by
  decide +kernel
theorem test_VA11_fsub_down :
    gives [0xD8, 0xE1] ((init.stack [ext 0 0x3FFF 0xC000000000000000, ext 0 0x3FFF 0xC000000000000000]).control 0x077F)
      (fun t => t.st 0 == ext 1 0x0000 0x0) := by
  decide +kernel
theorem test_VA47_fsub_single :
    gives [0xD8, 0x25, 0x00, 0x10, 0x00, 0x00] ((init.stack [ext 0 0x3FFF 0x8000000000000000]).word 4 0x3F800000)
      (fun t => t.st 0 == ext 0 0x0000 0x0) := by
  decide +kernel
theorem test_R233_fsub_double :
    gives [0xDC, 0x25, 0x00, 0x10, 0x00, 0x00] ((init.stack [ext 0 0x4000 0xC000000000000000]).word 8 0x3FF0000000000000)
      (fun t => t.st 0 == ext 0 0x4000 0x8000000000000000) := by
  decide +kernel
theorem test_R235_fsubr_single :
    gives [0xD8, 0x2D, 0x00, 0x10, 0x00, 0x00] ((init.stack [ext 0 0x3FFF 0x8000000000000000]).word 4 0x40400000)
      (fun t => t.st 0 == ext 0 0x4000 0x8000000000000000) := by
  decide +kernel
theorem test_R235_fsubr_double :
    gives [0xDC, 0x2D, 0x00, 0x10, 0x00, 0x00] ((init.stack [ext 0 0x3FFF 0x8000000000000000]).word 8 0x4008000000000000)
      (fun t => t.st 0 == ext 0 0x4000 0x8000000000000000) := by
  decide +kernel
theorem test_S25_fsub_st_st2 :
    gives [0xD8, 0xE2] (init.stack [ext 0 0x4000 0xC000000000000000, ext 0 0x0000 0x0, ext 0 0x3FFF 0x8000000000000000])
      (fun t => t.st 0 == ext 0 0x4000 0x8000000000000000) := by
  decide +kernel
theorem test_R235_fsubr_st_sti :
    gives [0xD8, 0xE9] (init.stack [ext 0 0x3FFF 0x8000000000000000, ext 0 0x4000 0xC000000000000000])
      (fun t => t.st 0 == ext 0 0x4000 0x8000000000000000) := by
  decide +kernel
theorem test_R102_fsub_sti_st :
    gives [0xDC, 0xE9] (init.stack [ext 0 0x3FFF 0x8000000000000000, ext 0 0x4000 0xC000000000000000])
      (fun t => t.st 1 == ext 0 0x4000 0x8000000000000000 && t.st 0 == ext 0 0x3FFF 0x8000000000000000) := by
  decide +kernel
theorem test_R102_fsubr_sti_st :
    gives [0xDC, 0xE1] (init.stack [ext 0 0x4000 0xC000000000000000, ext 0 0x3FFF 0x8000000000000000])
      (fun t => t.st 1 == ext 0 0x4000 0x8000000000000000) := by
  decide +kernel
theorem test_R255_fsubp :
    gives [0xDE, 0xE9] (init.stack [ext 0 0x3FFF 0x8000000000000000, ext 0 0x4000 0xC000000000000000])
      (fun t => t.st 0 == ext 0 0x4000 0x8000000000000000) := by
  decide +kernel
theorem test_S25_fsubrp :
    gives [0xDE, 0xE1] (init.stack [ext 0 0x4000 0xC000000000000000, ext 0 0x3FFF 0x8000000000000000])
      (fun t => t.st 0 == ext 0 0x4000 0x8000000000000000) := by
  decide +kernel
theorem test_VA22_fmul_unmasked_overflow :
    gives [0xD8, 0xC9] ((init.stack [ext 0 0x7E7F 0x8000000000000000, ext 0 0x7E7F 0x8000000000000000]).control 0x0377)
      (fun t => t.st 0 == ext 0 0x5CFF 0x8000000000000000 && swOf t == 0xB088) := by
  decide +kernel
theorem test_VA24_fmul_underflow :
    gives [0xD8, 0xC9] ((init.stack [ext 0 0x017F 0x8000000000000000, ext 0 0x017F 0x8000000000000000]).control 0x0B7F)
      (fun t => t.st 0 == ext 0 0x0000 0x1 && swOf t == 0x3230) := by
  decide +kernel
theorem test_R237_fmul_single :
    gives [0xD8, 0x0D, 0x00, 0x10, 0x00, 0x00] ((init.stack [ext 0 0x3FFF 0xC000000000000000]).word 4 0x40000000)
      (fun t => t.st 0 == ext 0 0x4000 0xC000000000000000) := by
  decide +kernel
theorem test_R237_fmul_double :
    gives [0xDC, 0x0D, 0x00, 0x10, 0x00, 0x00] ((init.stack [ext 0 0x3FFF 0xC000000000000000]).word 8 0x4000000000000000)
      (fun t => t.st 0 == ext 0 0x4000 0xC000000000000000) := by
  decide +kernel
theorem test_S18_fmul_sti_st :
    gives [0xDC, 0xC8] (init.stack [ext 0 0x4000 0x8000000000000000])
      (fun t => t.st 0 == ext 0 0x4001 0x8000000000000000) := by
  decide +kernel
theorem test_R256_fmulp :
    gives [0xDE, 0xC9] (init.stack [ext 0 0x3FFF 0xC000000000000000, ext 0 0x4000 0x8000000000000000])
      (fun t => t.st 0 == ext 0 0x4000 0xC000000000000000) := by
  decide +kernel
theorem test_VA16_fdiv_zeros :
    gives [0xD8, 0xF1] (init.stack [ext 0 0x0000 0x0, ext 0 0x0000 0x0])
      (fun t => t.st 0 == indefinite && swOf t == 0x3001) := by
  decide +kernel
theorem test_R239_fdiv_single :
    gives [0xD8, 0x35, 0x00, 0x10, 0x00, 0x00] ((init.stack [ext 0 0x3FFF 0x8000000000000000]).word 4 0x40400000)
      (fun t => t.st 0 == ext 0 0x3FFD 0xAAAAAAAAAAAAAAAB) := by
  decide +kernel
theorem test_R239_fdiv_double :
    gives [0xDC, 0x35, 0x00, 0x10, 0x00, 0x00] ((init.stack [ext 0 0x3FFF 0x8000000000000000]).word 8 0x4008000000000000)
      (fun t => t.st 0 == ext 0 0x3FFD 0xAAAAAAAAAAAAAAAB) := by
  decide +kernel
theorem test_R241_fdivr_single :
    gives [0xD8, 0x3D, 0x00, 0x10, 0x00, 0x00] ((init.stack [ext 0 0x4000 0xC000000000000000]).word 4 0x3F800000)
      (fun t => t.st 0 == ext 0 0x3FFD 0xAAAAAAAAAAAAAAAB) := by
  decide +kernel
theorem test_R241_fdivr_double :
    gives [0xDC, 0x3D, 0x00, 0x10, 0x00, 0x00] ((init.stack [ext 0 0x4000 0xC000000000000000]).word 8 0x3FF0000000000000)
      (fun t => t.st 0 == ext 0 0x3FFD 0xAAAAAAAAAAAAAAAB) := by
  decide +kernel
theorem test_VA4_fdivr_st_sti_double_precision :
    gives [0xD8, 0xF9] ((init.stack [ext 0 0x4000 0xC000000000000000, ext 0 0x3FFF 0x8000000000000000]).control 0x027F)
      (fun t => t.st 0 == ext 0 0x3FFD 0xAAAAAAAAAAAAA800 && swOf t == 0x3020) := by
  decide +kernel
theorem test_VA14_fdivr_snan_by_zero :
    gives [0xD8, 0xF9] (init.stack [ext 0 0x0000 0x0, ext 0 0x7FFF 0x8000000000000001])
      (fun t => t.st 0 == ext 0 0x7FFF 0xC000000000000001 && swOf t == 0x3001) := by
  decide +kernel
theorem test_R102_fdiv_sti_st :
    gives [0xDC, 0xF9] (init.stack [ext 0 0x4000 0xC000000000000000, ext 0 0x3FFF 0x8000000000000000])
      (fun t => t.st 1 == ext 0 0x3FFD 0xAAAAAAAAAAAAAAAB) := by
  decide +kernel
theorem test_R102_fdivr_sti_st :
    gives [0xDC, 0xF1] (init.stack [ext 0 0x3FFF 0x8000000000000000, ext 0 0x4000 0xC000000000000000])
      (fun t => t.st 1 == ext 0 0x3FFD 0xAAAAAAAAAAAAAAAB) := by
  decide +kernel
theorem test_VA8_fdivp :
    gives [0xDE, 0xF9] (init.stack [ext 0 0x3FFF 0x8000000000000000, ext 0 0x4000 0xC000000000000000])
      (fun t => t.st 0 == ext 0 0x4000 0xC000000000000000 && swOf t == 0x3800) := by
  decide +kernel
theorem test_R258_fdivrp :
    gives [0xDE, 0xF1] (init.stack [ext 0 0x3FFF 0x8000000000000000, ext 0 0x4000 0xC000000000000000])
      (fun t => t.st 0 == ext 0 0x3FFD 0xAAAAAAAAAAAAAAAB) := by
  decide +kernel
theorem test_R232_fiadd_short :
    gives [0xDA, 0x05, 0x00, 0x10, 0x00, 0x00] ((init.stack [ext 0 0x3FFF 0x8000000000000000]).word 4 0x2)
      (fun t => t.st 0 == ext 0 0x4000 0xC000000000000000) := by
  decide +kernel
theorem test_R232_fiadd_word :
    gives [0xDE, 0x05, 0x00, 0x10, 0x00, 0x00] ((init.stack [ext 0 0x4000 0xC000000000000000]).word 2 0xFFFF)
      (fun t => t.st 0 == ext 0 0x4000 0x8000000000000000) := by
  decide +kernel
theorem test_R234_fisub_short :
    gives [0xDA, 0x25, 0x00, 0x10, 0x00, 0x00] ((init.stack [ext 0 0x4000 0xC000000000000000]).word 4 0x1)
      (fun t => t.st 0 == ext 0 0x4000 0x8000000000000000) := by
  decide +kernel
theorem test_R234_fisub_word :
    gives [0xDE, 0x25, 0x00, 0x10, 0x00, 0x00] ((init.stack [ext 0 0x4000 0xC000000000000000]).word 2 0x1)
      (fun t => t.st 0 == ext 0 0x4000 0x8000000000000000) := by
  decide +kernel
theorem test_R236_fisubr_short :
    gives [0xDA, 0x2D, 0x00, 0x10, 0x00, 0x00] ((init.stack [ext 0 0x3FFF 0x8000000000000000]).word 4 0x3)
      (fun t => t.st 0 == ext 0 0x4000 0x8000000000000000) := by
  decide +kernel
theorem test_R236_fisubr_word :
    gives [0xDE, 0x2D, 0x00, 0x10, 0x00, 0x00] ((init.stack [ext 0 0x3FFF 0x8000000000000000]).word 2 0x3)
      (fun t => t.st 0 == ext 0 0x4000 0x8000000000000000) := by
  decide +kernel
theorem test_VA45_fimul_short :
    gives [0xDA, 0x0D, 0x00, 0x10, 0x00, 0x00] ((init.stack [ext 0 0x4000 0xA000000000000000]).word 4 0x2)
      (fun t => t.st 0 == ext 0 0x4001 0xA000000000000000) := by
  decide +kernel
theorem test_R238_fimul_word :
    gives [0xDE, 0x0D, 0x00, 0x10, 0x00, 0x00] ((init.stack [ext 0 0x3FFF 0xC000000000000000]).word 2 0x2)
      (fun t => t.st 0 == ext 0 0x4000 0xC000000000000000) := by
  decide +kernel
theorem test_VA46_fidiv_word :
    gives [0xDE, 0x35, 0x00, 0x10, 0x00, 0x00] ((init.stack [ext 0 0x3FFF 0x8000000000000000]).word 2 0x3)
      (fun t => t.st 0 == ext 0 0x3FFD 0xAAAAAAAAAAAAAAAB && swOf t == 0x3A20) := by
  decide +kernel
theorem test_R240_fidiv_short :
    gives [0xDA, 0x35, 0x00, 0x10, 0x00, 0x00] ((init.stack [ext 0 0x3FFF 0x8000000000000000]).word 4 0x3)
      (fun t => t.st 0 == ext 0 0x3FFD 0xAAAAAAAAAAAAAAAB) := by
  decide +kernel
theorem test_R242_fidivr_word :
    gives [0xDE, 0x3D, 0x00, 0x10, 0x00, 0x00] ((init.stack [ext 0 0x4000 0xC000000000000000]).word 2 0x1)
      (fun t => t.st 0 == ext 0 0x3FFD 0xAAAAAAAAAAAAAAAB) := by
  decide +kernel
theorem test_R242_fidivr_short :
    gives [0xDA, 0x3D, 0x00, 0x10, 0x00, 0x00] ((init.stack [ext 0 0x4000 0xC000000000000000]).word 4 0x1)
      (fun t => t.st 0 == ext 0 0x3FFD 0xAAAAAAAAAAAAAAAB) := by
  decide +kernel
theorem test_VA28_fsqrt :
    gives [0xD9, 0xFA] (init.stack [ext 0 0x4000 0x8000000000000000])
      (fun t => t.st 0 == ext 0 0x3FFF 0xB504F333F9DE6484 && swOf t == 0x3820) := by
  decide +kernel
theorem test_VA29_fsqrt_negative :
    gives [0xD9, 0xFA] (init.stack [ext 1 0x3FFF 0x8000000000000000])
      (fun t => t.st 0 == indefinite && swOf t == 0x3801) := by
  decide +kernel
theorem test_VA30_frndint :
    gives [0xD9, 0xFC] (init.stack [ext 0 0x4006 0x9BA0000000000000])
      (fun t => t.st 0 == ext 0 0x4006 0x9C00000000000000 && swOf t == 0x3A20) := by
  decide +kernel
theorem test_VA32_fxtract :
    gives [0xD9, 0xF4] (init.stack [ext 1 0x3FF8 0x8000000000000000])
      (fun t => t.st 1 == ext 1 0x4001 0xE000000000000000 && t.st 0 == ext 1 0x3FFF 0x8000000000000000) := by
  decide +kernel
theorem test_VA33_fxtract_zero :
    gives [0xD9, 0xF4] (init.stack [ext 0 0x0000 0x0])
      (fun t => t.st 1 == ext 1 0x7FFF 0x8000000000000000 && t.st 0 == ext 0 0x0000 0x0 && swOf t == 0x3004) := by
  decide +kernel
theorem test_VA34_fabs :
    gives [0xD9, 0xE1] (init.stack [ext 1 0x7FFF 0x8000000000000001])
      (fun t => t.st 0 == ext 0 0x7FFF 0x8000000000000001 && swOf t == 0x3800) := by
  decide +kernel
theorem test_VA35_fchs :
    gives [0xD9, 0xE0] (init.stack [ext 0 0x0000 0x0])
      (fun t => t.st 0 == ext 1 0x0000 0x0 && swOf t == 0x3800) := by
  decide +kernel
theorem test_VA37_fscale :
    gives [0xD9, 0xFD] (init.stack [ext 0 0x3FFF 0x8000000000000000, ext 1 0x4000 0xECCCCCCCCCCCCCCD])
      (fun t => t.st 0 == ext 0 0x3FFC 0x8000000000000000 && swOf t == 0x3000) := by
  decide +kernel
theorem test_VA39_fprem :
    gives [0xD9, 0xF8] (init.stack [ext 1 0x4003 0x8800000000000000, ext 0 0x4001 0xA000000000000000])
      (fun t => t.st 0 == ext 1 0x4000 0x8000000000000000 && t.sw.toBits == 0x7200) := by
  decide +kernel
theorem test_VA40_fprem_partial :
    gives [0xD9, 0xF8] (init.stack [ext 0 0x4045 0x8000000000000000, ext 0 0x4000 0xC000000000000000])
      (fun t => t.st 0 == ext 0 0x401F 0x8000000000000000 && t.sw.toBits == 0x3400) := by
  decide +kernel
theorem test_VA41_fprem1 :
    gives [0xD9, 0xF5] (init.stack [ext 0 0x4003 0x9000000000000000, ext 0 0x4001 0xA000000000000000])
      (fun t => t.st 0 == ext 1 0x4000 0x8000000000000000 && t.sw.toBits == 0x3100) := by
  decide +kernel
theorem test_VA42_fprem1_tie :
    gives [0xD9, 0xF5] (init.stack [ext 0 0x4001 0xA000000000000000, ext 0 0x4000 0x8000000000000000])
      (fun t => t.st 0 == ext 0 0x3FFF 0x8000000000000000 && t.sw.toBits == 0x7000) := by
  decide +kernel
theorem test_VC10_fcom_double :
    gives [0xDC, 0x15, 0x00, 0x10, 0x00, 0x00] ((init.stack [ext 0 0x3FFF 0xC000000000000000]).word 8 0x4000000000000000)
      (fun t => t.sw.toBits == 0x3900) := by
  decide +kernel
theorem test_VC12_fcom_single_zeros :
    gives [0xD8, 0x15, 0x00, 0x10, 0x00, 0x00] ((init.stack [ext 0 0x0000 0x0]).word 4 0x80000000)
      (fun t => t.sw.toBits == 0x7800) := by
  decide +kernel
theorem test_R282_fcomp_single :
    gives [0xD8, 0x1D, 0x00, 0x10, 0x00, 0x00] ((init.stack [ext 0 0x4000 0x8000000000000000]).word 4 0x40000000)
      (fun t => t.sw.toBits == 0x4000) := by
  decide +kernel
theorem test_P3a_fcomp_double :
    gives [0xDC, 0x1D, 0x00, 0x10, 0x00, 0x00] ((init.stack [ext 0 0x3FFF 0xC000000000000000]).word 8 0x4000000000000000)
      (fun t => t.sw.toBits == 0x0100) := by
  decide +kernel
theorem test_VC15_fcom_qnan :
    gives [0xD8, 0xD1] (init.stack [ext 0 0x7FFF 0xC000000000000000, ext 0 0x3FFF 0x8000000000000000])
      (fun t => t.sw.toBits == 0x7501) := by
  decide +kernel
theorem test_VC18_fcomp_unmasked :
    gives [0xD8, 0xD9] ((init.stack [ext 0 0x7FFF 0xC000000000000000, ext 0 0x3FFF 0x8000000000000000]).control 0x037E)
      (fun t => t.sw.toBits == 0xF581) := by
  decide +kernel
theorem test_VC13_fcompp :
    gives [0xDE, 0xD9] (init.stack [ext 1 0x7FFF 0x8000000000000000, ext 0 0x7FFF 0x8000000000000000])
      (fun t => t.sw.toBits == 0x0100 && t.tagWord == 0xFFFF) := by
  decide +kernel
theorem test_VC16_fucom_qnan :
    gives [0xDD, 0xE1] (init.stack [ext 0 0x7FFF 0xC000000000000000, ext 0 0x3FFF 0x8000000000000000])
      (fun t => t.sw.toBits == 0x7500) := by
  decide +kernel
theorem test_VC17_fucom_snan :
    gives [0xDD, 0xE1] (init.stack [ext 0 0x7FFF 0x8000000000000001, ext 0 0x3FFF 0x8000000000000000])
      (fun t => t.sw.toBits == 0x7501) := by
  decide +kernel
theorem test_R286_fucomp :
    gives [0xDD, 0xE9] (init.stack [ext 0 0x3FFF 0x8000000000000000, ext 0 0x4000 0x8000000000000000])
      (fun t => t.sw.toBits == 0x3900) := by
  decide +kernel
theorem test_VC19_fucompp :
    gives [0xDA, 0xE9] (init.stack [ext 0 0x3FFF 0x8000000000000000, ext 0 0x7FFF 0xC000000000000000])
      (fun t => t.sw.toBits == 0x4500 && t.tagWord == 0xFFFF) := by
  decide +kernel
theorem test_VC20_ficom_word :
    gives [0xDE, 0x15, 0x00, 0x10, 0x00, 0x00] ((init.stack [ext 0 0x4000 0xC000000000000000]).word 2 0x3)
      (fun t => t.sw.toBits == 0x7800) := by
  decide +kernel
theorem test_R284_ficom_short :
    gives [0xDA, 0x15, 0x00, 0x10, 0x00, 0x00] ((init.stack [ext 0 0x4000 0xC000000000000000]).word 4 0x4)
      (fun t => t.sw.toBits == 0x3900) := by
  decide +kernel
theorem test_VC21_ficomp_short :
    gives [0xDA, 0x1D, 0x00, 0x10, 0x00, 0x00] ((init.stack [ext 0 0x4000 0xC000000000000000]).word 4 0xFFFFFFFF)
      (fun t => t.sw.toBits == 0x0000) := by
  decide +kernel
theorem test_R285_ficomp_word :
    gives [0xDE, 0x1D, 0x00, 0x10, 0x00, 0x00] ((init.stack [ext 0 0x3FFF 0x8000000000000000]).word 2 0x1)
      (fun t => t.sw.toBits == 0x4000) := by
  decide +kernel
theorem test_VC22_ftst :
    gives [0xD9, 0xE4] (init.stack [ext 1 0x3FFF 0x8000000000000000])
      (fun t => t.sw.toBits == 0x3900) := by
  decide +kernel
theorem test_VC23_ftst_empty : gives [0xD9, 0xE4] (init) (fun t => t.sw.toBits == 0x4541) := by decide +kernel
theorem test_VC26_fxam :
    gives [0xD9, 0xE5] (init.stack [ext 1 0x7FFF 0x8000000000000000])
      (fun t => t.sw.toBits == 0x3F00) := by
  decide +kernel
theorem test_VC24_fxam_empty : gives [0xD9, 0xE5] (init) (fun t => t.sw.toBits == 0x4100) := by decide +kernel
theorem test_VT1_fsin :
    gives [0xD9, 0xFE] (init.stack [ext 1 0x0000 0x0])
      (fun t => t.st 0 == ext 1 0x0000 0x0 && swOf t == 0x3800 && !t.sw.c2) := by
  decide +kernel
theorem test_VT5_fsin_large :
    gives [0xD9, 0xFE] (init.stack [ext 0 0x403E 0x8000000000000000])
      (fun t => t.st 0 == ext 0 0x403E 0x8000000000000000 && t.sw.c2 && !t.sw.pe) := by
  decide +kernel
theorem test_VT2_fcos :
    gives [0xD9, 0xFF] (init.stack [ext 1 0x0000 0x0])
      (fun t => t.st 0 == ext 0 0x3FFF 0x8000000000000000 && !t.sw.c2) := by
  decide +kernel
theorem test_VT3_fsincos :
    gives [0xD9, 0xFB] (init.stack [ext 1 0x0000 0x0])
      (fun t => t.st 1 == ext 1 0x0000 0x0 && t.st 0 == ext 0 0x3FFF 0x8000000000000000 && swOf t == 0x3000) := by
  decide +kernel
theorem test_VT4_fptan :
    gives [0xD9, 0xF2] (init.stack [ext 0 0x0000 0x0])
      (fun t => t.st 1 == ext 0 0x0000 0x0 && t.st 0 == ext 0 0x3FFF 0x8000000000000000 && swOf t == 0x3000) := by
  decide +kernel
theorem test_VT7_fptan_overflow :
    gives [0xD9, 0xF2] (init.stack [ext 0 0x3FFF 0x8000000000000000, ext 0 0x3FFF 0x8000000000000000, ext 0 0x3FFF 0x8000000000000000, ext 0 0x3FFF 0x8000000000000000, ext 0 0x3FFF 0x8000000000000000, ext 0 0x3FFF 0x8000000000000000, ext 0 0x3FFF 0x8000000000000000, ext 0 0x3FFF 0x8000000000000000])
      (fun t => t.sw.sf && t.sw.ie && t.sw.c1) := by
  decide +kernel
theorem test_VT8_fpatan :
    gives [0xD9, 0xF3] (init.stack [ext 1 0x3FFF 0x8000000000000000, ext 0 0x0000 0x0])
      (fun t => t.st 0 == ext 0 0x4000 0xC90FDAA22168C235 && swOf t == 0x3A20) := by
  decide +kernel
theorem test_VT9_fpatan_infinities :
    gives [0xD9, 0xF3] (init.stack [ext 0 0x7FFF 0x8000000000000000, ext 1 0x7FFF 0x8000000000000000])
      (fun t => t.st 0 == ext 1 0x3FFE 0xC90FDAA22168C235 && swOf t == 0x3A20) := by
  decide +kernel
theorem test_VT11_f2xm1 :
    gives [0xD9, 0xF0] (init.stack [ext 1 0x7FFF 0x8000000000000000])
      (fun t => t.st 0 == ext 1 0x3FFF 0x8000000000000000 && swOf t == 0x3800) := by
  decide +kernel
theorem test_VT13_fyl2x_zero :
    gives [0xD9, 0xF1] (init.stack [ext 0 0x0000 0x0, ext 1 0x3FFF 0x8000000000000000])
      (fun t => t.st 0 == ext 1 0x7FFF 0x8000000000000000 && swOf t == 0x3804) := by
  decide +kernel
theorem test_VT14_fyl2x_negative :
    gives [0xD9, 0xF1] (init.stack [ext 1 0x3FFF 0x8000000000000000, ext 0 0x3FFF 0x8000000000000000])
      (fun t => t.st 0 == indefinite && swOf t == 0x3801) := by
  decide +kernel
theorem test_VT15_fyl2xp1 :
    gives [0xD9, 0xF9] (init.stack [ext 0 0x0000 0x0, ext 1 0x4000 0xC000000000000000])
      (fun t => t.st 0 == ext 1 0x0000 0x0 && swOf t == 0x3800) := by
  decide +kernel
theorem test_VL1_fld1 :
    gives [0xD9, 0xE8] (init)
      (fun t => t.st 0 == ext 0 0x3FFF 0x8000000000000000 && swOf t == 0x3800) := by
  decide +kernel
theorem test_VL2_fldl2t_up :
    gives [0xD9, 0xE9] ((init).control 0x0B7F)
      (fun t => t.st 0 == ext 0 0x4000 0xD49A784BCD1B8AFF) := by
  decide +kernel
theorem test_VL3_fldl2e :
    gives [0xD9, 0xEA] (init)
      (fun t => t.st 0 == ext 0 0x3FFF 0xB8AA3B295C17F0BC) := by
  decide +kernel
theorem test_VL4_fldpi :
    gives [0xD9, 0xEB] (init)
      (fun t => t.st 0 == ext 0 0x4000 0xC90FDAA22168C235) := by
  decide +kernel
theorem test_VL5_fldlg2_chop :
    gives [0xD9, 0xEC] ((init).control 0x0F7F)
      (fun t => t.st 0 == ext 0 0x3FFD 0x9A209A84FBCFF798) := by
  decide +kernel
theorem test_VL6_fldln2 :
    gives [0xD9, 0xED] (init)
      (fun t => t.st 0 == ext 0 0x3FFE 0xB17217F7D1CF79AC) := by
  decide +kernel
theorem test_VL7_fldz :
    gives [0xD9, 0xEE] (init)
      (fun t => t.st 0 == ext 0 0x0000 0x0 && swOf t == 0x3800) := by
  decide +kernel
theorem test_VC1_fninit_pending :
    gives [0xDB, 0xE3] (init.pending)
      (fun t => t.cw == 0x037F && t.sw.toBits == 0x0000 && t.tagWord == 0xFFFF) := by
  decide +kernel
theorem test_VC3_fldcw_unmasks :
    gives [0xD9, 0x2D, 0x00, 0x10, 0x00, 0x00] (({ init with sw := .ofBits 1 }).word 2 0x033E)
      (fun t => t.cw == 0x033E && t.sw.es && t.sw.busy && t.sw.ie) := by
  decide +kernel
theorem test_VC5_fnstcw :
    gives [0xD9, 0x3D, 0x00, 0x10, 0x00, 0x00] ((init).control 0x027F)
      (fun t => t.wordAt 2 == 0x027F) := by
  decide +kernel
theorem test_VC6_fnstsw :
    gives [0xDD, 0x3D, 0x00, 0x10, 0x00, 0x00] ({ init with sw := .ofBits 0x3A20 })
      (fun t => t.wordAt 2 == 0x3A20) := by
  decide +kernel
theorem test_VC6_fnstsw_ax :
    gives [0xDF, 0xE0] ({ init with sw := .ofBits 0x3A20, gpr := { init.gpr with eax := 0x12345678 } })
      (fun t => t.gpr.eax == 0x12343A20) := by
  decide +kernel
theorem test_VC7_fnclex :
    gives [0xDB, 0xE2] (({ init with sw := .ofBits 0xB8A1 }).control 0x037E)
      (fun t => !t.sw.es && !t.sw.busy && !t.sw.pe && !t.sw.ie && t.sw.top == 7) := by
  decide +kernel
theorem test_VC9_fincstp :
    gives [0xD9, 0xF7] (init.stack [ext 0 0x3FFF 0x8000000000000000])
      (fun t => t.sw.top == 0 && t.tagWord == 0x3FFF && !t.sw.c1) := by
  decide +kernel
theorem test_VC9b_fdecstp :
    gives [0xD9, 0xF6] (init)
      (fun t => t.sw.top == 7 && t.tagWord == 0xFFFF && !t.sw.c1) := by
  decide +kernel
theorem test_VC9c_ffree :
    gives [0xDD, 0xC1] (init.stack [ext 0 0x4000 0x8000000000000000, ext 0 0x3FFF 0x8000000000000000])
      (fun t => t.tagWord == 0xCFFF && t.st 1 == ext 0 0x3FFF 0x8000000000000000 && t.sw.toBits == 0x3000) := by
  decide +kernel
theorem test_VC9d_fnop :
    gives [0xD9, 0xD0] (init.stack [ext 0 0x3FFF 0x8000000000000000])
      (fun t => t.sw == (init.stack [ext 0 0x3FFF 0x8000000000000000]).sw && t.fop == 0x1D0) := by
  decide +kernel
theorem test_VC9d_feni :
    gives [0xDB, 0xE0] (init.stack [ext 0 0x3FFF 0x8000000000000000])
      (fun t => t.sw == (init.stack [ext 0 0x3FFF 0x8000000000000000]).sw && t.fop == 0x3E0) := by
  decide +kernel
theorem test_VC9d_fdisi :
    gives [0xDB, 0xE1] (init.stack [ext 0 0x3FFF 0x8000000000000000])
      (fun t => t.sw == (init.stack [ext 0 0x3FFF 0x8000000000000000]).sw && t.fop == 0x3E1) := by
  decide +kernel
theorem test_VC9d_fsetpm :
    gives [0xDB, 0xE4] (init.stack [ext 0 0x3FFF 0x8000000000000000])
      (fun t => t.sw == (init.stack [ext 0 0x3FFF 0x8000000000000000]).sw && t.fop == 0x3E4) := by
  decide +kernel
theorem test_VC9e_fnsave_16bit :
    gives [0x66, 0xDD, 0x35, 0x00, 0x10, 0x00, 0x00] (({ init.stack [ext 0 0x3FFF 0x8000000000000000] with sw := .ofBits 0xB881 }).control 0x037E)
      (fun t => t.imageAt 0 6 == 0x3FFFB881037E && t.imageAt 14 10 == 0x3FFF8000000000000000 && t.cw == 0x037F && t.sw.toBits == 0x0000) := by
  decide +kernel
theorem test_VC9g_fnstenv_16bit :
    gives [0x66, 0xD9, 0x35, 0x00, 0x10, 0x00, 0x00] (({ init.stack [ext 0 0x3FFF 0x8000000000000000] with sw := .ofBits 0xB881 }).control 0x037E)
      (fun t => t.imageAt 0 6 == 0x3FFFB881037E && t.cw == 0x037F && !t.sw.es && t.sw.ie) := by
  decide +kernel
theorem test_VC8_frstor :
    gives [0xDD, 0x25, 0x00, 0x10, 0x00, 0x00] ((init).word 6 0xC7FF0000037F)
      (fun t => t.cw == 0x037F && t.sw.toBits == 0x477F && t.tagWord != 0xFFFF) := by
  decide +kernel
theorem test_R343_fldenv :
    gives [0xD9, 0x25, 0x00, 0x10, 0x00, 0x00] ((init).word 10 0x3FFF0000B8000000037E)
      (fun t => t.cw == 0x037E && t.sw.toBits == 0x3800 && !t.isEmpty 7 && t.isEmpty 6) := by
  decide +kernel
theorem test_VC9h_wait_pending :
    gives [0x9B] (init.pending)
      (fun t => t.eip == init.gates.numericError.eip && t.links.map (fun l => (l.trap, l.eip)) == [(Trap.numericError, init.eip)]) := by
  decide +kernel
theorem test_VC9j_wait_ts :
    gives [0x9B] ({ init with cr0 := ⟨false, false, true, true⟩ })
      (fun t => t.links == [] && t.eip == 0x101) := by
  decide +kernel
/-- R360: EM is not tested by WAIT. -/
theorem test_R360_wait_pending_em :
    gives [0x9B] ({ init.pending with cr0 := ⟨true, false, true, true⟩ })
      (fun t => t.links.map (·.trap) == [Trap.numericError]) := by
  decide +kernel
theorem test_VC9k_em :
    gives [0xDB, 0xE3] ({ init with cr0 := ⟨true, true, false, true⟩ })
      (fun t => t.links.map (·.trap) == [Trap.notAvailable]) := by
  decide +kernel
theorem test_VE5_fdivr_denormal_overflow :
    gives [0xD8, 0xF9] (init.stack [ext 0 0x0000 0x1, ext 0 0x3FFF 0x8000000000000000])
      (fun t => t.st 0 == ext 0 0x7FFF 0x8000000000000000 && swOf t == 0x322A) := by
  decide +kernel

/-! ## The bound of R300 (b) at its ends -/

/-- `2^-200`. -/
def tiny : Ext := ext 0 0x3F37 0x8000000000000000

/-- The sine and the angle of a tiny number are just below it, its tangent just above: the values at a distance of
`2^-62` of it lie on either side of the bound. -/
theorem test_R300_bound_of_tiny_operands :
    let below : Mag := ⟨2 ^ 62 - 1, -262, false⟩
    let above : Mag := ⟨2 ^ 62 + 1, -262, false⟩
    let one := ext 0 0x3FFF 0x8000000000000000
    (withinBound (transReference .fsin tiny tiny true) below && !withinBound (transReference .fsin tiny tiny true) above
      && withinBound (transReference .fpatan tiny one true) below
      && !withinBound (transReference .fpatan tiny one true) above
      && withinBound (transReference .fptan tiny tiny true) above
      && !withinBound (transReference .fptan tiny tiny true) below) = true := by
  decide +kernel

/-- The cosine of a tiny number is just below 1; `2^1 - 1` is 1, and its bound is strict. -/
theorem test_R300_bound_at_one :
    let below : Mag := ⟨2 ^ 62 - 1, -62, false⟩
    let above : Mag := ⟨2 ^ 62 + 1, -62, false⟩
    let one := ext 0 0x3FFF 0x8000000000000000
    (withinBound (transReference .fcos tiny tiny true) below && !withinBound (transReference .fcos tiny tiny true) above
      && !withinBound (transReference .f2xm1 one one true) below
      && !withinBound (transReference .f2xm1 one one true) above
      && withinBound (transReference .f2xm1 one one true) ⟨2 ^ 63 + 1, -63, false⟩) = true := by
  decide +kernel

/-! ## Decoding: one word for every constructor, from the encodings of R98 to R104, R105 and R110; a memory operand is the
direct address 1000H, a register operand the last of its row -/

/-- The memory operand of the words below. -/
def m : MemOp := .a32 (.direct 0x1000)

/-- Every listed byte string decodes to the instruction beside it and leaves nothing. -/
def decodeTo (ws : List (List Byte × Instr)) : Bool :=
  ws.all fun w =>
    match decode true w.1 with
    | .ok (i, rest) => i == w.2 && rest.isEmpty
    | .error _ => false


theorem test_decode_9B :
    decodeTo [([0x9B], .wait [])] := by
  decide +kernel

theorem test_decode_D8 :
    decodeTo [([0xD8, 0x05, 0x00, 0x10, 0x00, 0x00], .faddM32 [] m),
      ([0xD8, 0x0D, 0x00, 0x10, 0x00, 0x00], .fmulM32 [] m),
      ([0xD8, 0x15, 0x00, 0x10, 0x00, 0x00], .fcomM32 [] m),
      ([0xD8, 0x1D, 0x00, 0x10, 0x00, 0x00], .fcompM32 [] m),
      ([0xD8, 0x25, 0x00, 0x10, 0x00, 0x00], .fsubM32 [] m),
      ([0xD8, 0x2D, 0x00, 0x10, 0x00, 0x00], .fsubrM32 [] m),
      ([0xD8, 0x35, 0x00, 0x10, 0x00, 0x00], .fdivM32 [] m),
      ([0xD8, 0x3D, 0x00, 0x10, 0x00, 0x00], .fdivrM32 [] m),
      ([0xD8, 0xC7], .faddStSti [] 7),
      ([0xD8, 0xCF], .fmulStSti [] 7),
      ([0xD8, 0xD7], .fcomSti [] 7),
      ([0xD8, 0xDF], .fcompSti [] 7),
      ([0xD8, 0xE7], .fsubStSti [] 7),
      ([0xD8, 0xEF], .fsubrStSti [] 7),
      ([0xD8, 0xF7], .fdivStSti [] 7),
      ([0xD8, 0xFF], .fdivrStSti [] 7)] := by
  decide +kernel

theorem test_decode_D9 :
    decodeTo [([0xD9, 0x05, 0x00, 0x10, 0x00, 0x00], .fldM32 [] m),
      ([0xD9, 0x0D, 0x00, 0x10, 0x00, 0x00], .reservedD9Mem1 [] m),
      ([0xD9, 0x15, 0x00, 0x10, 0x00, 0x00], .fstM32 [] m),
      ([0xD9, 0x1D, 0x00, 0x10, 0x00, 0x00], .fstpM32 [] m),
      ([0xD9, 0x25, 0x00, 0x10, 0x00, 0x00], .fldenv [] m),
      ([0xD9, 0x2D, 0x00, 0x10, 0x00, 0x00], .fldcw [] m),
      ([0xD9, 0x35, 0x00, 0x10, 0x00, 0x00], .fnstenv [] m),
      ([0xD9, 0x3D, 0x00, 0x10, 0x00, 0x00], .fnstcw [] m),
      ([0xD9, 0xC7], .fldSti [] 7),
      ([0xD9, 0xCF], .fxch [] 7),
      ([0xD9, 0xD0], .fnop []),
      ([0xD9, 0xD1], .reservedD9D1 []),
      ([0xD9, 0xD3], .reservedD9D2 [] 1),
      ([0xD9, 0xD7], .reservedD9D4 [] 3),
      ([0xD9, 0xDF], .reservedD9D8 [] 7),
      ([0xD9, 0xE0], .fchs []),
      ([0xD9, 0xE1], .fabs []),
      ([0xD9, 0xE2], .reservedD9E2 []),
      ([0xD9, 0xE3], .reservedD9E3 []),
      ([0xD9, 0xE4], .ftst []),
      ([0xD9, 0xE5], .fxam []),
      ([0xD9, 0xE6], .reservedD9E6 []),
      ([0xD9, 0xE7], .reservedD9E7 []),
      ([0xD9, 0xE8], .fld1 []),
      ([0xD9, 0xE9], .fldl2t []),
      ([0xD9, 0xEA], .fldl2e []),
      ([0xD9, 0xEB], .fldpi []),
      ([0xD9, 0xEC], .fldlg2 []),
      ([0xD9, 0xED], .fldln2 []),
      ([0xD9, 0xEE], .fldz []),
      ([0xD9, 0xEF], .reservedD9EF []),
      ([0xD9, 0xF0], .f2xm1 []),
      ([0xD9, 0xF1], .fyl2x []),
      ([0xD9, 0xF2], .fptan []),
      ([0xD9, 0xF3], .fpatan []),
      ([0xD9, 0xF4], .fxtract []),
      ([0xD9, 0xF5], .fprem1 []),
      ([0xD9, 0xF6], .fdecstp []),
      ([0xD9, 0xF7], .fincstp []),
      ([0xD9, 0xF8], .fprem []),
      ([0xD9, 0xF9], .fyl2xp1 []),
      ([0xD9, 0xFA], .fsqrt []),
      ([0xD9, 0xFB], .fsincos []),
      ([0xD9, 0xFC], .frndint []),
      ([0xD9, 0xFD], .fscale []),
      ([0xD9, 0xFE], .fsin []),
      ([0xD9, 0xFF], .fcos [])] := by
  decide +kernel

theorem test_decode_DA :
    decodeTo [([0xDA, 0x05, 0x00, 0x10, 0x00, 0x00], .fiaddI32 [] m),
      ([0xDA, 0x0D, 0x00, 0x10, 0x00, 0x00], .fimulI32 [] m),
      ([0xDA, 0x15, 0x00, 0x10, 0x00, 0x00], .ficomI32 [] m),
      ([0xDA, 0x1D, 0x00, 0x10, 0x00, 0x00], .ficompI32 [] m),
      ([0xDA, 0x25, 0x00, 0x10, 0x00, 0x00], .fisubI32 [] m),
      ([0xDA, 0x2D, 0x00, 0x10, 0x00, 0x00], .fisubrI32 [] m),
      ([0xDA, 0x35, 0x00, 0x10, 0x00, 0x00], .fidivI32 [] m),
      ([0xDA, 0x3D, 0x00, 0x10, 0x00, 0x00], .fidivrI32 [] m),
      ([0xDA, 0xDF], .reservedDAC0 [] 31),
      ([0xDA, 0xE7], .reservedDAE0 [] 7),
      ([0xDA, 0xE8], .reservedDAE8 []),
      ([0xDA, 0xE9], .fucompp []),
      ([0xDA, 0xEB], .reservedDAEA [] 1),
      ([0xDA, 0xEF], .reservedDAEC [] 3),
      ([0xDA, 0xFF], .reservedDAF0 [] 15)] := by
  decide +kernel

theorem test_decode_DB :
    decodeTo [([0xDB, 0x05, 0x00, 0x10, 0x00, 0x00], .fildI32 [] m),
      ([0xDB, 0x0D, 0x00, 0x10, 0x00, 0x00], .reservedDBMem1 [] m),
      ([0xDB, 0x15, 0x00, 0x10, 0x00, 0x00], .fistI32 [] m),
      ([0xDB, 0x1D, 0x00, 0x10, 0x00, 0x00], .fistpI32 [] m),
      ([0xDB, 0x25, 0x00, 0x10, 0x00, 0x00], .reservedDBMem4 [] m),
      ([0xDB, 0x2D, 0x00, 0x10, 0x00, 0x00], .fldM80 [] m),
      ([0xDB, 0x35, 0x00, 0x10, 0x00, 0x00], .reservedDBMem6 [] m),
      ([0xDB, 0x3D, 0x00, 0x10, 0x00, 0x00], .fstpM80 [] m),
      ([0xDB, 0xDF], .reservedDBC0 [] 31),
      ([0xDB, 0xE0], .feni []),
      ([0xDB, 0xE1], .fdisi []),
      ([0xDB, 0xE2], .fnclex []),
      ([0xDB, 0xE3], .fninit []),
      ([0xDB, 0xE4], .fsetpm []),
      ([0xDB, 0xE5], .reservedDBE5 []),
      ([0xDB, 0xE7], .reservedDBE6 [] 1),
      ([0xDB, 0xEF], .reservedDBE8 [] 7),
      ([0xDB, 0xFF], .reservedDBF0 [] 15)] := by
  decide +kernel

theorem test_decode_DC :
    decodeTo [([0xDC, 0x05, 0x00, 0x10, 0x00, 0x00], .faddM64 [] m),
      ([0xDC, 0x0D, 0x00, 0x10, 0x00, 0x00], .fmulM64 [] m),
      ([0xDC, 0x15, 0x00, 0x10, 0x00, 0x00], .fcomM64 [] m),
      ([0xDC, 0x1D, 0x00, 0x10, 0x00, 0x00], .fcompM64 [] m),
      ([0xDC, 0x25, 0x00, 0x10, 0x00, 0x00], .fsubM64 [] m),
      ([0xDC, 0x2D, 0x00, 0x10, 0x00, 0x00], .fsubrM64 [] m),
      ([0xDC, 0x35, 0x00, 0x10, 0x00, 0x00], .fdivM64 [] m),
      ([0xDC, 0x3D, 0x00, 0x10, 0x00, 0x00], .fdivrM64 [] m),
      ([0xDC, 0xC7], .faddStiSt [] 7),
      ([0xDC, 0xCF], .fmulStiSt [] 7),
      ([0xDC, 0xDF], .reservedDCD0 [] 15),
      ([0xDC, 0xE7], .fsubrStiSt [] 7),
      ([0xDC, 0xEF], .fsubStiSt [] 7),
      ([0xDC, 0xF7], .fdivrStiSt [] 7),
      ([0xDC, 0xFF], .fdivStiSt [] 7)] := by
  decide +kernel

theorem test_decode_DD :
    decodeTo [([0xDD, 0x05, 0x00, 0x10, 0x00, 0x00], .fldM64 [] m),
      ([0xDD, 0x0D, 0x00, 0x10, 0x00, 0x00], .reservedDDMem1 [] m),
      ([0xDD, 0x15, 0x00, 0x10, 0x00, 0x00], .fstM64 [] m),
      ([0xDD, 0x1D, 0x00, 0x10, 0x00, 0x00], .fstpM64 [] m),
      ([0xDD, 0x25, 0x00, 0x10, 0x00, 0x00], .frstor [] m),
      ([0xDD, 0x2D, 0x00, 0x10, 0x00, 0x00], .reservedDDMem5 [] m),
      ([0xDD, 0x35, 0x00, 0x10, 0x00, 0x00], .fnsave [] m),
      ([0xDD, 0x3D, 0x00, 0x10, 0x00, 0x00], .fnstswM16 [] m),
      ([0xDD, 0xC7], .ffree [] 7),
      ([0xDD, 0xCF], .reservedDDC8 [] 7),
      ([0xDD, 0xD7], .fstSti [] 7),
      ([0xDD, 0xDF], .fstpSti [] 7),
      ([0xDD, 0xE7], .fucomSti [] 7),
      ([0xDD, 0xEF], .fucompSti [] 7),
      ([0xDD, 0xFF], .reservedDDF0 [] 15)] := by
  decide +kernel

theorem test_decode_DE :
    decodeTo [([0xDE, 0x05, 0x00, 0x10, 0x00, 0x00], .fiaddI16 [] m),
      ([0xDE, 0x0D, 0x00, 0x10, 0x00, 0x00], .fimulI16 [] m),
      ([0xDE, 0x15, 0x00, 0x10, 0x00, 0x00], .ficomI16 [] m),
      ([0xDE, 0x1D, 0x00, 0x10, 0x00, 0x00], .ficompI16 [] m),
      ([0xDE, 0x25, 0x00, 0x10, 0x00, 0x00], .fisubI16 [] m),
      ([0xDE, 0x2D, 0x00, 0x10, 0x00, 0x00], .fisubrI16 [] m),
      ([0xDE, 0x35, 0x00, 0x10, 0x00, 0x00], .fidivI16 [] m),
      ([0xDE, 0x3D, 0x00, 0x10, 0x00, 0x00], .fidivrI16 [] m),
      ([0xDE, 0xC7], .faddp [] 7),
      ([0xDE, 0xCF], .fmulp [] 7),
      ([0xDE, 0xD7], .reservedDED0 [] 7),
      ([0xDE, 0xD8], .reservedDED8 []),
      ([0xDE, 0xD9], .fcompp []),
      ([0xDE, 0xDB], .reservedDEDA [] 1),
      ([0xDE, 0xDF], .reservedDEDC [] 3),
      ([0xDE, 0xE7], .fsubrp [] 7),
      ([0xDE, 0xEF], .fsubp [] 7),
      ([0xDE, 0xF7], .fdivrp [] 7),
      ([0xDE, 0xFF], .fdivp [] 7)] := by
  decide +kernel

theorem test_decode_DF :
    decodeTo [([0xDF, 0x05, 0x00, 0x10, 0x00, 0x00], .fildI16 [] m),
      ([0xDF, 0x0D, 0x00, 0x10, 0x00, 0x00], .reservedDFMem1 [] m),
      ([0xDF, 0x15, 0x00, 0x10, 0x00, 0x00], .fistI16 [] m),
      ([0xDF, 0x1D, 0x00, 0x10, 0x00, 0x00], .fistpI16 [] m),
      ([0xDF, 0x25, 0x00, 0x10, 0x00, 0x00], .fbld [] m),
      ([0xDF, 0x2D, 0x00, 0x10, 0x00, 0x00], .fildI64 [] m),
      ([0xDF, 0x35, 0x00, 0x10, 0x00, 0x00], .fbstp [] m),
      ([0xDF, 0x3D, 0x00, 0x10, 0x00, 0x00], .fistpI64 [] m),
      ([0xDF, 0xDF], .reservedDFC0 [] 31),
      ([0xDF, 0xE0], .fnstswAx []),
      ([0xDF, 0xE1], .reservedDFE1 []),
      ([0xDF, 0xE3], .reservedDFE2 [] 1),
      ([0xDF, 0xE7], .reservedDFE4 [] 3),
      ([0xDF, 0xEF], .reservedDFE8 [] 7),
      ([0xDF, 0xFF], .reservedDFF0 [] 15)] := by
  decide +kernel

/-! ## Address forms (R91 to R94, R106; the words of S18, S25 and R340, and words written from Tables of R93 and R94) -/

theorem test_decode_forms32 :
    decodeTo [([0xDD, 0x75, 0x94], .fnsave [] (.a32 (.reg .ebp (.d8 0x94)))),
      ([0xDA, 0x4D, 0xFC], .fimulI32 [] (.a32 (.reg .ebp (.d8 0xFC)))),
      ([0xD9, 0x86, 0x06, 0x00, 0x00, 0x00], .fldM32 [] (.a32 (.reg .esi (.full 6)))),
      ([0x2E, 0xDC, 0x96, 0x08, 0x00, 0x00, 0x00], .fcomM64 [.seg .cs] (.a32 (.reg .esi (.full 8)))),
      ([0xD8, 0x44, 0xB3, 0x10], .faddM32 [] (.a32 (.sib 2 (some .esi) .ebx (.d8 0x10)))),
      ([0xD8, 0x04, 0x24], .faddM32 [] (.a32 (.sib 0 none .esp .none))),
      ([0xD8, 0x04, 0xCD, 0x78, 0x56, 0x34, 0x12], .faddM32 [] (.a32 (.sibNoBase 3 (some .ecx) 0x12345678)))] := by
  decide +kernel

theorem test_decode_forms16 :
    decodeTo [([0x67, 0xDD, 0x3C], .fnstswM16 [.addrSize] (.a16 (.based .si .none))),
      ([0x67, 0xD9, 0x3E, 0x34, 0x12], .fnstcw [.addrSize] (.a16 (.direct 0x1234))),
      ([0x67, 0xD8, 0x46, 0xFE], .faddM32 [.addrSize] (.a16 (.based .bp (.d8 0xFE)))),
      ([0x66, 0x67, 0xDD, 0xB1, 0x34, 0x12], .fnsave [.opSize, .addrSize] (.a16 (.based .bxDi (.full 0x1234))))] := by
  decide +kernel

theorem test_decode_refuses :
    decode true [0xF0, 0xD9, 0xC0] = .error (.lockOrRep 0xF0) ∧ decode true [0x90] = .error (.notNpx 0x90)
      ∧ decode true [0xD9] = .error .truncated ∧ decode true [0xD9, 0x05, 0x00] = .error .truncated := by
  decide +kernel

/-- `[EBP-108]` lies in the stack segment, at an offset modulo 2^32 (R93). -/
theorem test_place_of_ebp :
    (({ init with gpr := { init.gpr with ebp := 0x40 } }).place [] (.a32 (.reg .ebp (.d8 0x94)))).off = 0xFFFFFFD4
      ∧ memSeg [] (.a32 (.reg .ebp (.d8 0x94))) = .ss ∧ memSeg [.seg .fs] (.a32 (.reg .ebp (.d8 0x94))) = .fs := by
  decide +kernel

/-- Sixteen-bit sums wrap at 64K (R94). -/
theorem test_place_of_bx_si :
    (({ init with gpr := { init.gpr with ebx := 0xFFFF, esi := 0x12340003 } }).place [.addrSize]
      (.a16 (.based .bxSi (.d8 0xFF)))).off = 1 := by
  decide +kernel

/-! ## WellFormed: each check with a term it refuses -/

theorem test_wf_bp_needs_a_displacement : (EA16.based .bp .none).wf = false := by decide
theorem test_wf_esp_is_no_index : (EA32.sib 0 (some .esp) .eax .none).wf = false := by decide
theorem test_wf_esp_is_no_index_without_base : (EA32.sibNoBase 0 (some .esp) 0).wf = false := by decide
theorem test_wf_esp_needs_a_sib : (EA32.reg .esp .none).wf = false := by decide
theorem test_wf_ebp_needs_a_displacement : (EA32.reg .ebp .none).wf = false := by decide
theorem test_wf_ebp_base_needs_a_displacement : (EA32.sib 0 none .ebp .none).wf = false := by decide
theorem test_wf_16_bit_form_under_32_bits : (Instr.fldcw [] (.a16 (.direct 0))).wf true = false := by decide
theorem test_wf_32_bit_form_under_16_bits : (Instr.fldcw [.addrSize] m).wf true = false := by decide
theorem test_wf_too_long : (Instr.fldcw (.replicate 10 .opSize) m).wf true = false := by decide
theorem test_wf_longest : (Instr.fldcw (.replicate 9 .opSize) m).wf true = true := by decide

/-! ## Steps -/

/-- A state whose next bytes are these. -/
def code (bs : List Byte) (s : State) : State := { s with mem := writeBytes s.mem ((List.range bs.length).map (0x100 + ·)) bs }

/-- The step answers a next state that passes the check. -/
def stepsTo (s : State) (p : State → Bool) : Bool :=
  match step s with
  | .next t => p t
  | _ => false

theorem stepsTo_next {s : State} {p : State → Bool} (h : stepsTo s p = true) : ∃ t, step s = .next t := by
  unfold stepsTo at h
  split at h
  · exact ⟨_, ‹_›⟩
  · cases h

theorem test_step_executes : stepsTo (code [0xD9, 0xE8] init) (fun t => t.st 0 == oneExt false && t.eip == 0x102) := by
  decide +kernel

/-- V-H1: WAIT right after RESET takes interrupt 16. -/
theorem test_VH1_wait_after_reset :
    stepsTo (State.reset.withFetchWord 8 0x9B) (fun t => t.links.map (·.trap) == [Trap.numericError]) := by
  decide +kernel

/-- V-H2: FNINIT right after RESET is executed. -/
theorem test_VH2_fninit_after_reset :
    stepsTo (State.reset.withFetchWord 16 0xDBE3) (fun t => t.cw == 0x037F && t.eip == 0xFFF2) := by
  decide +kernel

theorem test_step_reset_event :
    stepsTo { init with inputs := [some .reset] } (fun t => t.cw == 0x037E && t.sw == .reset && t.tagWord == 0xFFFF) := by
  decide +kernel

/-- R460: RESET while FNSTCW [1000H] is storing leaves any value in its two bytes and no other byte changed. -/
theorem test_R460_reset_in_store :
    let s := { code [0xD9, 0x3D, 0x00, 0x10, 0x00, 0x00] init with inputs := [some .resetInStore] }
    s.fetch.toOption.map (fun i => s.storeInProgress i.1) = some [0x1000, 0x1001]
      ∧ stepsTo s (fun t => t.draws == 16 && t.cw == 0x037E && readByte t.mem 0x100 == 0xD9) = true := by
  decide +kernel

/-- R474, C16: a store that an unmasked overflow has cancelled still has to be waited for. -/
theorem test_R474_cancelled_store_is_pending :
    gives [0xD9, 0x15, 0x00, 0x10, 0x00, 0x00] ((init.stack [ext 0 0x407F 0x8000000000000000]).control 0x0377)
      (fun t => t.sw.oe && t.pendingStores == [0x1000, 0x1001, 0x1002, 0x1003]) := by
  decide +kernel

/-- R474: FLDENV loads from memory as any other instruction does. -/
theorem test_R474_fldenv_is_pending :
    gives [0x66, 0xD9, 0x25, 0x00, 0x10, 0x00, 0x00] (init.word 6 0xFFFF0000037F)
      (fun t => t.pendingLoads == (List.range 14).map (0x1000 + ·) && t.pendingStores == []) := by
  decide +kernel

/-- R474, R431: a store that interrupt 9 has cut short has to be waited for too. -/
theorem test_R474_interrupt_9_is_pending :
    gives [0xDD, 0x15, 0x00, 0x10, 0x00, 0x00]
      { init.stack [ext 0 0x3FFF 0x8000000000000000] with seg := { init.seg with ds := { flat with limit := 0x1001 } } }
      (fun t => t.overrun && t.pendingStores == (List.range 8).map (0x1000 + ·)) := by
  decide +kernel

/-- R474: interrupt 16 comes after the wait, so nothing is pending in its handler. -/
theorem test_R474_interrupt_16_synchronises :
    gives [0x9B] { init.pending with pendingStores := [0x1000], pendingLoads := [0x2000] }
      (fun t => t.links.map (·.trap) == [Trap.numericError] && t.pendingStores == [] && t.pendingLoads == []) := by
  decide +kernel

/-- R21: SAHF after FSTSW AX (run P3a: AX = 0100H). -/
theorem test_P3a_sahf :
    stepsTo { init with inputs := [some .sahf], gpr := { init.gpr with eax := 0x0100 } }
      (fun t => t.flags.cf && !t.flags.pf && !t.flags.zf) := by
  decide +kernel

/-- R105: a reserved encoding is a fault. -/
theorem test_reserved_faults :
    (match step (code [0xD9, 0xD1] init) with
      | .fault .reservedEncoding => true
      | _ => false) = true := by
  decide +kernel

/-- R432: an operand whose first word lies beyond the limit takes interrupt 13 and the instruction is not executed. -/
theorem test_first_word_outside :
    gives [0xD9, 0x05, 0x00, 0x10, 0x00, 0x00]
      { init with seg := { init.seg with ds := { flat with limit := 0x1000 } } }
      (fun t => t.links.map (·.trap) == [Trap.generalProtection] && t.sw.top == 0) := by
  decide +kernel

/-- R340 corner case 5: a page fault on the second word of the first doubleword leaves FNSAVE not executed. -/
theorem test_R340_page_fault_in_the_first_doubleword :
    gives [0xDD, 0x35, 0x00, 0x10, 0x00, 0x00] { init with denied := [⟨0x1002, 0x1003, true, true⟩] }
      (fun t => t.links.map (·.trap) == [Trap.pageFault] && !t.overrun && t.cw == init.cw && t.mem == []) := by
  decide +kernel

/-- R431: a later word beyond the limit takes interrupt 9. -/
theorem test_later_word_outside :
    gives [0xD9, 0x05, 0x00, 0x10, 0x00, 0x00]
      { init with seg := { init.seg with ds := { flat with limit := 0x1001 } } }
      (fun t => t.links.map (·.trap) == [Trap.segmentOverrun] && t.overrun) := by
  decide +kernel

/-! ## Witnesses: for every statement with hypotheses, states and operands that meet them -/

/-- The value of a normal number by its fields. -/
theorem val_of (x : Ext) (e m : Nat) (he : x.exp.toNat = e) (hm : x.sig.toNat = m) (h : e ≠ 0) :
    x.val = signOf x.sign * 2 ^ ((e : ℤ) - 16383) * ((m : ℚ) / 2 ^ 63) := by
  subst he hm
  exact if_neg fun h' => h (by rw [h']; rfl)

/-- An integer rounds to itself. -/
theorem roundsToInt_self (rc : Rounding) (z : ℤ) : RoundsToInt rc (z : ℝ) z := by
  refine ⟨⟨z, rfl⟩, ?_⟩
  cases rc
  · refine ⟨fun w _ => by simp, ?_⟩
    rintro ⟨w, -, hne, h⟩
    simp [sub_eq_zero] at h
    exact absurd h.symm hne
  · exact ⟨le_rfl, fun _ _ h => h⟩
  · exact ⟨le_rfl, fun _ _ h => h⟩
  · exact ⟨le_rfl, mul_self_nonneg _, fun _ _ _ h => h⟩

/-- Chopping a number that is not negative gives the integer just below it. -/
theorem roundsToInt_chop {x : ℝ} {k : ℤ} (h0 : 0 ≤ k) (h1 : (k : ℝ) ≤ x) (h2 : x < k + 1) : RoundsToInt .chop x k := by
  have hk : (0 : ℝ) ≤ k := by exact_mod_cast h0
  have hx : 0 ≤ x := hk.trans h1
  refine ⟨⟨k, rfl⟩, by rwa [abs_of_nonneg hk, abs_of_nonneg hx], mul_nonneg hx hk, ?_⟩
  rintro z ⟨n, rfl⟩ - h
  rw [abs_of_nonneg hx] at h
  rw [abs_of_nonneg hk]
  have : |n| < k + 1 := by exact_mod_cast h.trans_lt h2
  exact_mod_cast Int.lt_add_one_iff.mp this

/-- Numbers of moderate size are in range. -/
theorem inRange_of {e : ℚ} (h1 : 1 ≤ |e|) (h2 : |e| < 2 ^ (100 : ℤ)) : inRange e :=
  ⟨(zpow_le_one_of_nonpos₀ (by norm_num) (by norm_num)).trans h1,
    h2.trans_le (zpow_le_zpow_right₀ (by norm_num) (by norm_num))⟩

def one : Ext := ext 0 0x3FFF 0x8000000000000000
def two : Ext := ext 0 0x4000 0x8000000000000000
def three : Ext := ext 0 0x4000 0xC000000000000000
def half : Ext := ext 0 0x3FFE 0x8000000000000000
def zero : Ext := ext 0 0 0
def snan : Ext := ext 0 0x7FFF 0x8000000000000001
def qnan : Ext := ext 0 0x7FFF 0xC000000000000000
/-- 2^63. -/
def large : Ext := ext 0 0x403E 0x8000000000000000
/-- Eight registers nonempty. -/
def full : State := init.stack (.replicate 8 one)
/-- `[3, 1]` on the stack. -/
def pair : State := init.stack [three, one]

theorem val_one : one.val = 1 := by rw [val_of one 0x3FFF 0x8000000000000000 (by decide) (by decide) (by decide)]; norm_num [one, ext, signOf]
theorem val_three : three.val = 3 := by rw [val_of three 0x4000 0xC000000000000000 (by decide) (by decide) (by decide)]; norm_num [three, ext, signOf]
theorem val_half : half.val = 1 / 2 := by rw [val_of half 0x3FFE 0x8000000000000000 (by decide) (by decide) (by decide)]; norm_num [half, ext, signOf]

theorem init_ready (w : Bool) : init.Ready w := ⟨rfl, rfl, rfl, fun _ => rfl⟩
theorem pair_ready (w : Bool) : pair.Ready w := ⟨rfl, rfl, rfl, fun _ => rfl⟩
theorem full_ready (w : Bool) : full.Ready w := ⟨rfl, rfl, rfl, fun _ => rfl⟩
theorem init_sound : init.Sound := ⟨rfl, rfl, rfl, rfl⟩
theorem pair_sound : pair.Sound := ⟨rfl, rfl, rfl, rfl⟩

/-! ### Encoding, step, invariant -/

theorem witness_EncodeThenDecode : (Instr.fldcw (.replicate 9 .opSize) m).wf true = true := by decide
theorem witness_DecodeThenEncode :
    decode false [0xD9, 0x3C, 0x90] = .ok (.fnstcw [] (.a16 (.based .si .none)), [0x90]) := by decide +kernel

theorem witness_StepExecutesTheDecodedInstruction :
    (∀ e l, (code [0xD9, 0xE8] init).inputs ≠ some e :: l)
      ∧ (code [0xD9, 0xE8] init).dropInput.fetch = .ok (.fld1 [], .replicate 13 0)
      ∧ (Instr.fld1 []).wf (code [0xD9, 0xE8] init).code32 = true
      ∧ (code [0xD9, 0xE8] init).dropInput.codeStored (Instr.fld1 []).length = false :=
  ⟨fun e l h => List.cons_ne_nil (some e) l (show _ = ([] : List (Option Event)) from h.symm), by decide +kernel, by decide +kernel,
    by decide +kernel⟩

theorem witness_EveryStepKeepsSound :
    (code [0xD9, 0xE8] init).Sound ∧ ∃ t, step (code [0xD9, 0xE8] init) = .next t :=
  ⟨⟨by decide +kernel, by decide +kernel, by decide +kernel, by decide +kernel⟩, stepsTo_next (p := fun _ => true) (by decide +kernel)⟩

/-! ### Interrupts and faults -/

theorem witness_EscPassesTheGatesOfCrZero :
    ((Instr.fninit []).form ≠ .wait ∧ { init with cr0 := ⟨true, false, false, false⟩ }.cr0.em = true)
      ∧ ({ init with cr0 := ⟨false, false, true, true⟩ }.cr0.ts = true)
      ∧ ((Instr.wait []).form = .wait ∧ { init with cr0 := ⟨false, true, true, true⟩ }.cr0.mp = true
          ∧ { init with cr0 := ⟨false, true, true, true⟩ }.cr0.ts = true)
      ∧ { init with cr0 := ⟨false, true, false, false⟩ }.cr0.et = false := by decide

theorem witness_PendingErrorTakesInterruptSixteen :
    init.pending.sw.es = true ∧ (Instr.fld1 []).form ≠ .wait ∧ noWait (.fld1 []) = false
      ∧ init.pending.cr0.em = false ∧ init.pending.cr0.ts = false ∧ init.pending.cr0.et = true
      ∧ (Instr.wait []).form = .wait ∧ (init.pending.cr0.mp && init.pending.cr0.ts) = false := by decide

/-- The data segment ends with the given limit. -/
def limited (l : Word32) : State := { init with seg := { init.seg with ds := { flat with limit := l } } }

theorem witness_DeniedFirstWordTrapsUnexecuted :
    (limited 0x1000).access (.fldM32 [] m) = some ⟨m, false, 4⟩ ∧ (limited 0x1000).Ready true
      ∧ (limited 0x1000).firstFault ((limited 0x1000).place [] m) false 4 = some .generalProtection :=
  ⟨rfl, ⟨rfl, rfl, rfl, fun _ => rfl⟩, by decide +kernel⟩

/-- Bytes 2 and 3 are paging's to check first (R340 corner case 5), byte 4 is not. -/
theorem witness_DeniedFirstWordTrapsUnexecuted_page :
    { init with denied := [⟨0x1003, 0x1003, false, true⟩] }.firstFault (init.place [] m) true 108 = some .pageFault
      ∧ { init with denied := [⟨0x1004, 0x1004, false, true⟩] }.firstFault (init.place [] m) true 108 = none
      ∧ { init with denied := [⟨0x1002, 0x1002, false, true⟩] }.firstFault (init.place [] m) true 2 = none := by
  decide +kernel

theorem witness_DeniedLaterPartTakesInterruptNine :
    (limited 0x1001).access (.fldM32 [] m) = some ⟨m, false, 4⟩ ∧ (limited 0x1001).Ready true
      ∧ (limited 0x1001).firstFault ((limited 0x1001).place [] m) false 4 = none
      ∧ (limited 0x1001).laterFault ((limited 0x1001).place [] m) false 4 = true :=
  ⟨rfl, ⟨rfl, rfl, rfl, fun _ => rfl⟩, by decide +kernel, by decide +kernel⟩

theorem witness_DeniedLaterPartTakesInterruptNine_store :
    (limited 0x1001).access (.fnstenv [] m) = some ⟨m, true, 28⟩ ∧ noWait (.fnstenv [] m) = true
      ∧ (limited 0x1001).Ready false ∧ (limited 0x1001).firstFault ((limited 0x1001).place [] m) true 28 = none
      ∧ (limited 0x1001).laterFault ((limited 0x1001).place [] m) true 28 = true :=
  ⟨rfl, rfl, ⟨rfl, rfl, rfl, fun _ => rfl⟩, by decide +kernel, by decide +kernel⟩

theorem witness_ReservedEncodingFaults : reserved (.reservedD9D1 []) = true ∧ init.Ready true := ⟨rfl, init_ready _⟩

/-! ### Frames -/

theorem witness_OnlyTheStoredOperandChanges :
    (∃ t, exec (.fstM32 [] m) pair = .next t) ∧ pair.storeAddrs (.fstM32 [] m) = [0x1000, 0x1001, 0x1002, 0x1003] :=
  ⟨⟨_, rfl⟩, by decide +kernel⟩

theorem witness_OnlyResultRegistersChange : ∃ t, exec (.faddp [] 1) pair = .next t ∧ t.overrun = false := ⟨_, rfl, rfl⟩

theorem witness_FlagsAreSticky :
    ∃ t, exec (.fld1 []) { init with sw := .ofBits 0x7F } = .next t ∧ t.overrun = false
      ∧ StatusWord.sf (.ofBits 0x7F) = true ∧ StatusWord.flag (.ofBits 0x7F) .pe = true := ⟨_, rfl, rfl, rfl, rfl⟩

theorem witness_OnlyControlInstructionsChangeTheControlWord :
    ∃ t, exec (.fnstenv [] m) init = .next t ∧ t.overrun = false := ⟨_, rfl, rfl⟩

theorem witness_ProcessorStateIsKept : ∃ t, exec (.fnstswAx []) init = .next t ∧ t.links = init.links := ⟨_, rfl, rfl⟩

theorem witness_ExceptionPointersAreRecorded :
    (∃ t, exec (.fninit []) init = .next t ∧ t.overrun = false ∧ keepsPointers (.fninit []) = true)
      ∧ (∃ t, exec (.fld1 []) init.pending = .next t ∧ t.overrun = false ∧ t.links ≠ init.pending.links)
      ∧ (∃ t, exec (.fldM80 [] m) init = .next t ∧ t.overrun = false ∧ t.links = init.links
          ∧ keepsPointers (.fldM80 [] m) = false ∧ init.access (.fldM80 [] m) = some ⟨m, false, 10⟩) :=
  ⟨⟨_, rfl, rfl, rfl⟩, ⟨_, rfl, rfl, by decide⟩, ⟨_, rfl, rfl, rfl, rfl, rfl⟩⟩

/-! ### Loads and constants -/

/-- An operand at 1000H of a flat data segment can be reached. -/
theorem init_reachable_108 : init.Reachable [] m true 108 ∧ init.Reachable [] m false 108 :=
  ⟨⟨by decide +kernel, by decide +kernel⟩, ⟨by decide +kernel, by decide +kernel⟩⟩

theorem witness_FldRealPushesTheValue :
    (init.word 4 0x7F7FFFFF).Ready true ∧ (init.word 4 0x7F7FFFFF).Reachable [] m false 4
      ∧ (init.word 4 0x7F7FFFFF).full7 = false
      ∧ formatFinite 8 23 (leNat ((init.word 4 0x7F7FFFFF).readPlace ((init.word 4 0x7F7FFFFF).place [] m) 4)) = true
      ∧ masked (init.word 4 0x7F7FFFFF).cw .de = true :=
  ⟨⟨rfl, rfl, rfl, fun _ => rfl⟩, ⟨by decide +kernel, by decide +kernel⟩, by decide +kernel, by decide +kernel,
    by decide +kernel⟩

theorem witness_FldExtendedAndRegisterPushTheirBits :
    pair.Ready true ∧ pair.full7 = false ∧ pair.Reachable [] m false 10 ∧ pair.stEmpty 1 = false :=
  ⟨pair_ready _, by decide +kernel, ⟨by decide +kernel, by decide +kernel⟩, by decide +kernel⟩

theorem witness_FildPushesTheInteger :
    init.Ready true ∧ init.Reachable [] m false 2 ∧ init.Reachable [] m false 4 ∧ init.Reachable [] m false 8
      ∧ init.full7 = false :=
  ⟨init_ready _, ⟨by decide +kernel, by decide +kernel⟩, ⟨by decide +kernel, by decide +kernel⟩,
    ⟨by decide +kernel, by decide +kernel⟩, by decide +kernel⟩

theorem witness_FbldPushesTheDecimal :
    init.Reachable [] m false 10
      ∧ ∀ k, k < 18 → leNat ((init.word 10 0x80999999999999999999).readPlace (init.place [] m) 10) / 16 ^ k % 16 ≤ 9 :=
  ⟨⟨by decide +kernel, by decide +kernel⟩, by decide +kernel⟩

theorem witness_ConstantsPushTheTablesPatterns :
    constantTable (.fldpi []) = some (0x4000, 0xC90FDAA22168C234, some true) ∧ init.Ready true ∧ init.full7 = false :=
  ⟨rfl, init_ready _, by decide +kernel⟩

theorem witness_PushOntoAFullRegisterOverflows :
    pushesOnly (.fldSti [] 0) = true ∧ full.Ready true ∧ full.OperandReachable (.fldSti [] 0) ∧ full.full7 = true
      ∧ ∀ p j, Instr.fldSti [] 0 = .fldSti p j → full.stEmpty j = false := by
  refine ⟨rfl, full_ready _, nofun, by decide +kernel, ?_⟩
  rintro p j ⟨⟩
  decide +kernel

/-! ### Stores -/

theorem witness_MovesKeepEveryBit :
    pair.Sound ∧ pair.Ready true ∧ pair.stEmpty 0 = false ∧ pair.stEmpty 1 = false ∧ pair.Reachable [] m true 10 :=
  ⟨pair_sound, pair_ready _, by decide +kernel, by decide +kernel, ⟨by decide +kernel, by decide +kernel⟩⟩

/-- The least normal single, 2^-126. -/
def leastSingle : Ext := ext 0 0x3F81 0x8000000000000000

theorem witness_FstRealStoresTheRoundedValue :
    (init.stack [leastSingle]).Sound ∧ (init.stack [leastSingle]).Ready true
      ∧ (init.stack [leastSingle]).Reachable [] m true 4 ∧ (init.stack [leastSingle]).stEmpty 0 = false
      ∧ ((init.stack [leastSingle]).st 0).ordinary = true
      ∧ (2 ^ (2 - 2 ^ (8 - 1) : ℤ) ≤ |((init.stack [leastSingle]).st 0).val|
          ∧ |((init.stack [leastSingle]).st 0).val| < 2 ^ (2 ^ (8 - 1) - 1 : ℤ)) := by
  refine ⟨⟨rfl, rfl, rfl, rfl⟩, ⟨rfl, rfl, rfl, fun _ => rfl⟩, ⟨by decide +kernel, by decide +kernel⟩, by decide +kernel,
    by decide +kernel, ?_⟩
  have h : ((init.stack [leastSingle]).st 0).val = 2 ^ (-126 : ℤ) := by
    rw [show (init.stack [leastSingle]).st 0 = leastSingle by decide +kernel,
      val_of leastSingle 0x3F81 0x8000000000000000 (by decide) (by decide) (by decide)]
    norm_num [leastSingle, ext, signOf]
  rw [h]
  constructor <;> norm_num

/-- 2^128, the least number that overflows a single. -/
def overSingle : Ext := ext 0 0x407F 0x8000000000000000
/-- 2^-128, half the greatest number that every rounding leaves tiny in a single. -/
def tinySingle : Ext := ext 0 0x3F7F 0x8000000000000000

theorem witness_UnmaskedOverflowStoresNothing :
    let s := (init.stack [overSingle]).control 0x0367
    let t := (init.stack [tinySingle]).control 0x0367
    s.Ready true ∧ s.Reachable [] m true 4 ∧ s.stEmpty 0 = false ∧ classify (s.st 0) = .normal
      ∧ 2 ^ (2 ^ (8 - 1) : ℤ) ≤ |(s.st 0).val| ∧ masked s.cw .oe = false
      ∧ classify (t.st 0) = .normal ∧ |(t.st 0).val| < 2 ^ (1 - 2 ^ (8 - 1) : ℤ) ∧ masked t.cw .ue = false := by
  refine ⟨⟨rfl, rfl, rfl, fun _ => rfl⟩, ⟨by decide +kernel, by decide +kernel⟩, by decide +kernel, by decide +kernel, ?_,
    by decide +kernel, by decide +kernel, ?_, by decide +kernel⟩
  · rw [show ((init.stack [overSingle]).control 0x0367).st 0 = overSingle by decide +kernel,
      val_of overSingle 0x407F 0x8000000000000000 (by decide) (by decide) (by decide)]
    norm_num [overSingle, ext, signOf]
  · rw [show ((init.stack [tinySingle]).control 0x0367).st 0 = tinySingle by decide +kernel,
      val_of tinySingle 0x3F7F 0x8000000000000000 (by decide) (by decide) (by decide)]
    norm_num [tinySingle, ext, signOf]

/-- 32767, the greatest word integer. -/
def greatestWord : Ext := ext 0 0x400D 0xFFFE000000000000
/-- 32768. -/
def beyondWord : Ext := ext 0 0x400E 0x8000000000000000

theorem witness_FistStoresTheRoundedInteger :
    let s := init.stack [greatestWord]
    s.Sound ∧ s.Ready true ∧ s.Reachable [] m true 2 ∧ s.stEmpty 0 = false ∧ (s.st 0).isFiniteNonzero = true
      ∧ RoundsToInt s.rc ((s.st 0).val : ℝ) 32767 ∧ (32767 : ℤ) ≤ 2 ^ (8 * 2 - 1) - 1 := by
  refine ⟨⟨rfl, rfl, rfl, rfl⟩, ⟨rfl, rfl, rfl, fun _ => rfl⟩, ⟨by decide +kernel, by decide +kernel⟩, by decide +kernel,
    by decide +kernel, ?_, by norm_num⟩
  have h : ((init.stack [greatestWord]).st 0).val = 32767 := by
    rw [show (init.stack [greatestWord]).st 0 = greatestWord by decide +kernel,
      val_of greatestWord 0x400D 0xFFFE000000000000 (by decide) (by decide) (by decide)]
    norm_num [greatestWord, ext, signOf]
  rw [h]
  exact_mod_cast roundsToInt_self _ 32767

theorem witness_FistStoresTheRoundedInteger_outOfRange :
    let s := init.stack [beyondWord]
    s.Ready true ∧ s.stEmpty 0 = false ∧ (s.st 0).isFiniteNonzero = true
      ∧ ∃ z : ℤ, RoundsToInt s.rc ((s.st 0).val : ℝ) z ∧ (z < -(2 ^ (8 * 2 - 1) : ℤ) ∨ 2 ^ (8 * 2 - 1) - 1 < z) := by
  refine ⟨⟨rfl, rfl, rfl, fun _ => rfl⟩, by decide +kernel, by decide +kernel, 32768, ?_, Or.inr (by norm_num)⟩
  have h : ((init.stack [beyondWord]).st 0).val = 32768 := by
    rw [show (init.stack [beyondWord]).st 0 = beyondWord by decide +kernel,
      val_of beyondWord 0x400E 0x8000000000000000 (by decide) (by decide) (by decide)]
    norm_num [beyondWord, ext, signOf]
  rw [h]
  exact_mod_cast roundsToInt_self _ 32768

theorem witness_FbstpStoresTheRoundedDecimal :
    pair.Sound ∧ pair.Ready true ∧ pair.Reachable [] m true 10 ∧ pair.stEmpty 0 = false
      ∧ (pair.st 0).isFiniteNonzero = true ∧ RoundsToInt pair.rc ((pair.st 0).val : ℝ) 3
      ∧ (3 : ℤ).natAbs ≤ 10 ^ 18 - 1 := by
  refine ⟨pair_sound, pair_ready _, ⟨by decide +kernel, by decide +kernel⟩, by decide +kernel, by decide +kernel, ?_,
    by decide⟩
  rw [show pair.st 0 = three by decide +kernel, val_three]
  exact_mod_cast roundsToInt_self _ 3

/-- 10^18, the least number of nineteen digits. -/
def nineteenDigits : Ext := ext 0 0x403A 0xDE0B6B3A76400000

theorem witness_FbstpStoresTheRoundedDecimal_outOfRange :
    let s := init.stack [nineteenDigits]
    s.Sound ∧ s.Ready true ∧ s.Reachable [] m true 10 ∧ s.stEmpty 0 = false ∧ (s.st 0).isFiniteNonzero = true
      ∧ ∃ z : ℤ, RoundsToInt s.rc ((s.st 0).val : ℝ) z ∧ 10 ^ 18 - 1 < z.natAbs := by
  refine ⟨⟨rfl, rfl, rfl, rfl⟩, ⟨rfl, rfl, rfl, fun _ => rfl⟩, ⟨by decide +kernel, by decide +kernel⟩,
    by decide +kernel, by decide +kernel, 1000000000000000000, ?_, by decide⟩
  have h : ((init.stack [nineteenDigits]).st 0).val = 1000000000000000000 := by
    rw [show (init.stack [nineteenDigits]).st 0 = nineteenDigits by decide +kernel,
      val_of nineteenDigits 0x403A 0xDE0B6B3A76400000 (by decide) (by decide) (by decide)]
    norm_num [nineteenDigits, ext, signOf]
  rw [h]
  exact_mod_cast roundsToInt_self _ 1000000000000000000

/-! ### Arithmetic -/

theorem witness_RegisterArithmeticRoundsTheExactResult :
    registerArithmetic (.faddp [] 1) = some (1, 0, 1, fun d e => d + e) ∧ pair.Ready true ∧ pcBits pair.cw = some 64
      ∧ pair.stEmpty 1 = false ∧ pair.stEmpty 0 = false ∧ (pair.st 1).ordinary = true ∧ (pair.st 0).ordinary = true
      ∧ inRange ((pair.st 1).val + (pair.st 0).val) := by
  refine ⟨rfl, pair_ready _, by decide +kernel, by decide +kernel, by decide +kernel, by decide +kernel, by decide +kernel,
    ?_⟩
  rw [show pair.st 0 = three by decide +kernel, show pair.st 1 = one by decide +kernel, val_one, val_three]
  apply inRange_of <;> norm_num

theorem witness_MemoryArithmeticRoundsTheExactResult :
    let s := pair.word 2 2
    memoryArithmetic (.fimulI16 [] m) = some (m, .int16, fun d e => d * e) ∧ s.Ready true
      ∧ s.Reachable [] m false 2 ∧ pcBits s.cw = some 64 ∧ s.stEmpty 0 = false ∧ (s.st 0).ordinary = true
      ∧ Source.ordinary .int16 (leNat (s.readPlace (s.place [] m) 2)) = true
      ∧ inRange ((s.st 0).val * Source.val .int16 (leNat (s.readPlace (s.place [] m) 2))) := by
  refine ⟨rfl, ⟨rfl, rfl, rfl, fun _ => rfl⟩, ⟨by decide +kernel, by decide +kernel⟩, by decide +kernel, by decide +kernel,
    by decide +kernel, rfl, ?_⟩
  rw [show (pair.word 2 2).st 0 = three by decide +kernel, val_three,
    show leNat ((pair.word 2 2).readPlace ((pair.word 2 2).place [] m) 2) = 2 by decide +kernel]
  have h : Source.val .int16 2 = 2 := by
    show (((BitVec.ofNat 16 2).toInt : ℤ) : ℚ) = 2
    rw [show (BitVec.ofNat 16 2).toInt = 2 by decide]; norm_num
  rw [h]
  apply inRange_of <;> norm_num

theorem witness_ReservedPrecisionFaults :
    let s := pair.control 0x017F
    s.cw.extractLsb' 8 2 = 1 ∧ s.Ready true ∧ s.OperandReachable (.fmulp [] 1)
      ∧ (registerArithmetic (.fmulp [] 1)).isSome = true :=
  ⟨by decide +kernel, ⟨rfl, rfl, rfl, fun _ => rfl⟩, nofun, rfl⟩

theorem witness_DivisionByZero :
    let s := init.stack [zero, one]
    s.Ready true ∧ pcBits s.cw ≠ none ∧ s.stEmpty 1 = false ∧ s.stEmpty 0 = false
      ∧ (s.st 1).isFiniteNonzero = true ∧ (s.st 0).isZero = true :=
  ⟨⟨rfl, rfl, rfl, fun _ => rfl⟩, by decide +kernel, by decide +kernel, by decide +kernel, by decide +kernel,
    by decide +kernel⟩

theorem witness_SignalingNanIsInvalid :
    let s := init.stack [qnan, snan]
    s.Ready true ∧ pcBits s.cw ≠ none ∧ s.stEmpty 0 = false ∧ s.stEmpty 1 = false ∧ (s.st 0).isUnsupported = false
      ∧ (s.st 1).isUnsupported = false ∧ (s.st 1).isSnan = true :=
  ⟨⟨rfl, rfl, rfl, fun _ => rfl⟩, by decide +kernel, by decide +kernel, by decide +kernel, by decide +kernel,
    by decide +kernel, by decide +kernel⟩

/-- A quiet NaN alone, two signaling NaNs, an unsupported pattern, and each invalid pair of operands. -/
theorem witness_SignalingNanIsInvalid_others :
    let inf := infExt false
    let bad := ext 0 0x3FFF 0x4000000000000000
    (qnan.isNan && !qnan.isSnan && !one.isNan && snan.isSnan && bad.isUnsupported
      && invalidOperands (.faddp [] 1) inf (infExt true) && invalidOperands (.fsubp [] 1) inf inf
      && invalidOperands (.fmulp [] 1) zero inf && invalidOperands (.fdivp [] 1) inf inf
      && invalidOperands (.fdivp [] 1) zero zero) = true
      ∧ (init.stack [qnan, one]).Ready true ∧ pcBits (init.stack [qnan, one]).cw ≠ none
      ∧ (init.stack [qnan, one]).stEmpty 0 = false ∧ (init.stack [qnan, one]).stEmpty 1 = false :=
  ⟨by decide +kernel, ⟨rfl, rfl, rfl, fun _ => rfl⟩, by decide +kernel, by decide +kernel, by decide +kernel⟩

theorem witness_EmptyOperandUnderflows :
    init.Ready true ∧ pcBits init.cw ≠ none ∧ init.stEmpty 0 = true :=
  ⟨init_ready _, by decide +kernel, by decide +kernel⟩

theorem witness_EmptyOperandUnderflows_others :
    underflowing (.fyl2x []) = some ([0, 1], 1, 0) ∧ init.OperandReachable (.fyl2x []) ∧ init.stEmpty 1 = true
      ∧ indefiniteStore (.fstpM80 [] m) = some (m, 10, 0xFFFFC000000000000000, 1) ∧ init.Sound
      ∧ init.Reachable [] m true 10 :=
  ⟨rfl, nofun, by decide +kernel, rfl, init_sound, by decide +kernel, by decide +kernel⟩

theorem witness_RoundingIsTableTwoFive :
    (Mag.Denotes { n := 5, k := 0, more := true } (11 / 2) ∧ 2 ≤ Nat.log2 5)
      ∧ Mag.Denotes { n := 5, k := 0, more := false } 5 := by
  refine ⟨⟨?_, by decide⟩, ?_⟩ <;> norm_num [Mag.Denotes]

theorem witness_UnmaskedOverflowIsScaled :
    Mag.Denotes { n := 1, k := 16384, more := false } (2 ^ (16384 : ℤ))
      ∧ (2 : ℝ) ^ (16384 : ℤ) < 2 ^ (32766 : ℤ) ∧ masked 0x0377 .oe = false ∧ masked 0x037F .oe = true :=
  ⟨by simp [Mag.Denotes], zpow_lt_zpow_right₀ (by norm_num) (by norm_num), by decide, by decide⟩

/-- The greatest and the least of the tiny results: the largest number below the normal range, and 2^-40958. -/
theorem witness_UnmaskedOverflowIsScaled_tiny :
    (∃ x, Mag.Denotes { n := 2 ^ 64 - 1, k := -16446, more := false } x
        ∧ x ≤ (1 - 2 ^ (-64 : ℤ)) * 2 ^ (-16382 : ℤ))
      ∧ Mag.Denotes { n := 1, k := -40958, more := false } (2 ^ (-40958 : ℤ))
      ∧ masked 0x036F .ue = false ∧ masked 0x037F .ue = true := by
  refine ⟨⟨_, rfl, le_of_eq ?_⟩, by simp [Mag.Denotes], by decide, by decide⟩
  rw [show (-16382 : ℤ) = 64 + -16446 by norm_num, zpow_add₀ (two_ne_zero' ℝ), ← mul_assoc]
  congr 1
  norm_num

theorem witness_FsqrtRoundsTheExactRoot :
    pair.Ready true ∧ pcBits pair.cw = some 64 ∧ pair.stEmpty 0 = false ∧ classify (pair.st 0) = .normal
      ∧ (pair.st 0).sign = false :=
  ⟨pair_ready _, by decide +kernel, by decide +kernel, by decide +kernel, by decide +kernel⟩

theorem witness_FsqrtRoundsTheExactRoot_negative :
    let s := init.stack [ext 1 0 1]
    let t := init.stack [infExt true]
    s.Ready true ∧ pcBits s.cw = some 64 ∧ s.stEmpty 0 = false ∧ (s.st 0).isFiniteNonzero = true ∧ (s.st 0).sign = true
      ∧ (t.st 0).isInf = true ∧ (t.st 0).sign = true :=
  ⟨⟨rfl, rfl, rfl, fun _ => rfl⟩, by decide +kernel, by decide +kernel, by decide +kernel, by decide +kernel,
    by decide +kernel, by decide +kernel⟩

theorem witness_FrndintRoundsToAnInteger :
    pair.Ready true ∧ pair.stEmpty 0 = false ∧ (pair.st 0).ordinary = true :=
  ⟨pair_ready _, by decide +kernel, by decide +kernel⟩

theorem witness_FscaleMultipliesByAPowerOfTwo :
    pair.Ready true ∧ pair.stEmpty 0 = false ∧ pair.stEmpty 1 = false ∧ classify (pair.st 0) = .normal
      ∧ (pair.st 1).ordinary = true ∧ RoundsToInt .chop ((pair.st 1).val : ℝ) 1
      ∧ inRange ((pair.st 0).val * 2 ^ (1 : ℤ)) := by
  refine ⟨pair_ready _, by decide +kernel, by decide +kernel, by decide +kernel, by decide +kernel, ?_, ?_⟩
  · rw [show pair.st 1 = one by decide +kernel, val_one]
    exact_mod_cast roundsToInt_self _ 1
  · rw [show pair.st 0 = three by decide +kernel, val_three]
    apply inRange_of <;> norm_num

theorem witness_FxtractSplitsANumber :
    pair.Ready true ∧ pair.stEmpty 0 = false ∧ pair.full7 = false ∧ classify (pair.st 0) = .normal :=
  ⟨pair_ready _, by decide +kernel, by decide +kernel, by decide +kernel⟩

theorem witness_SignInstructionsChangeTheSignBit :
    (pair.Ready true ∧ pair.stEmpty 0 = false) ∧ init.Ready true ∧ init.stEmpty 0 = true :=
  ⟨⟨pair_ready _, by decide +kernel⟩, init_ready _, by decide +kernel⟩

/-- The remainder 0: 3 = 1 * 3. -/
theorem witness_RemainderIsExact_zero :
    pair.Ready true ∧ pair.stEmpty 0 = false ∧ pair.stEmpty 1 = false ∧ classify (pair.st 0) = .normal
      ∧ classify (pair.st 1) = .normal ∧ (pair.st 0).exp.toNat < (pair.st 1).exp.toNat + 64
      ∧ RoundsToInt .nearest (((pair.st 0).val / (pair.st 1).val : ℚ) : ℝ) 3
      ∧ (pair.st 0).val - (pair.st 1).val * (3 : ℤ) = 0 := by
  refine ⟨pair_ready _, by decide +kernel, by decide +kernel, by decide +kernel, by decide +kernel, by decide +kernel,
    ?_, ?_⟩
  · rw [show pair.st 0 = three by decide +kernel, show pair.st 1 = one by decide +kernel, val_one, val_three, div_one]
    exact_mod_cast roundsToInt_self _ 3
  · rw [show pair.st 0 = three by decide +kernel, show pair.st 1 = one by decide +kernel, val_one, val_three]
    norm_num

/-- A remainder that is not 0: 1 = 3 * 0 + 1. -/
theorem witness_RemainderIsExact :
    RoundsToInt .chop ((one.val / three.val : ℚ) : ℝ) 0 ∧ inRange (one.val - three.val * (0 : ℤ)) := by
  rw [val_one, val_three]
  exact ⟨roundsToInt_chop le_rfl (by norm_num) (by norm_num), by apply inRange_of <;> norm_num⟩

/-- 2^65, whose exponent exceeds that of 3 by 64. -/
def far : Ext := ext 0 0x4040 0x8000000000000000

/-- The least difference that leaves the remainder incomplete: 2^65 = 3 * 2863311530 * 2^32 + 2^33. -/
theorem witness_RemainderIsExact_incomplete :
    let s := init.stack [far, three]
    let unit : ℚ := 2 ^ (64 - (32 + 64 % 32))
    s.Ready true ∧ s.stEmpty 0 = false ∧ s.stEmpty 1 = false ∧ classify (s.st 0) = .normal
      ∧ classify (s.st 1) = .normal ∧ (s.st 1).exp.toNat + 64 ≤ (s.st 0).exp.toNat
      ∧ (s.st 0).exp.toNat - (s.st 1).exp.toNat = 64
      ∧ RoundsToInt .chop (((s.st 0).val / (s.st 1).val / unit : ℚ) : ℝ) 2863311530
      ∧ inRange ((s.st 0).val - (s.st 1).val * (2863311530 : ℤ) * unit) := by
  refine ⟨⟨rfl, rfl, rfl, fun _ => rfl⟩, by decide +kernel, by decide +kernel, by decide +kernel, by decide +kernel,
    by decide +kernel, by decide +kernel, ?_⟩
  have h : ((init.stack [far, three]).st 0).val = 2 ^ 65 := by
    rw [show (init.stack [far, three]).st 0 = far by decide +kernel,
      val_of far 0x4040 0x8000000000000000 (by decide) (by decide) (by decide)]
    norm_num [far, ext, signOf]
  rw [h, show (init.stack [far, three]).st 1 = three by decide +kernel, val_three]
  refine ⟨roundsToInt_chop ?_ ?_ ?_, ?_⟩
  · norm_num
  · norm_num
  · norm_num
  · apply inRange_of <;> norm_num

/-! ### Comparisons -/

theorem witness_ComparisonsOrderTheirOperands :
    comparison (.fcompp []) = some (.reg 1, 2, false) ∧ pair.Ready true ∧ pair.stEmpty 0 = false
      ∧ (pair.st 0).ordinary = true ∧ comparedAt pair (.fcompp []) (.reg 1) (pair.st 1).affine := by
  refine ⟨rfl, pair_ready _, by decide +kernel, by decide +kernel, ?_⟩
  simp only [comparedAt]
  exact ⟨by decide +kernel, Or.inl (by decide +kernel), trivial⟩

/-- Minus infinity in memory. -/
theorem witness_ComparisonsOrderTheirOperands_infinity :
    let s := pair.word 4 0xFF800000
    s.Ready true ∧ s.stEmpty 0 = false ∧ comparedAt s (.fcomM32 [] m) (.mem m .single) ⊥ := by
  refine ⟨⟨rfl, rfl, rfl, fun _ => rfl⟩, by decide +kernel, ?_⟩
  simp only [comparedAt]
  refine ⟨⟨by decide +kernel, by decide +kernel⟩, Or.inr (by decide +kernel), ?_⟩
  rw [show leNat ((pair.word 4 0xFF800000).readPlace ((pair.word 4 0xFF800000).place (Instr.fcomM32 [] m).prefixes m)
    Source.single.size) = 0xFF800000 by decide +kernel]
  rfl

theorem witness_ComparisonsWithANanAreUnordered :
    let s := init.stack [qnan, one]
    comparison (.fucomSti [] 1) = some (.reg 1, 0, true) ∧ s.Ready true ∧ s.stEmpty 0 = false
      ∧ comparedNan s (.fucomSti [] 1) (.reg 1) false false ∧ (s.st 0).isNan = true := by
  refine ⟨rfl, ⟨rfl, rfl, rfl, fun _ => rfl⟩, by decide +kernel, ?_, by decide +kernel⟩
  simp only [comparedNan]
  decide +kernel

/-- A number in ST and a signaling NaN in memory. -/
theorem witness_ComparisonsWithANanAreUnordered_memory :
    let s := pair.word 4 0x7F800001
    s.Ready true ∧ s.stEmpty 0 = false ∧ comparedNan s (.fcomM32 [] m) (.mem m .single) true true := by
  refine ⟨⟨rfl, rfl, rfl, fun _ => rfl⟩, by decide +kernel, ?_⟩
  simp only [comparedNan]
  exact ⟨⟨by decide +kernel, by decide +kernel⟩, by decide +kernel, by decide +kernel⟩

/-- Both clauses of `escGates`, which four statements use, apply somewhere. -/
theorem witness_escGates :
    { init with cr0 := ⟨true, false, false, true⟩ }.cr0.em = true
      ∧ init.pending.cr0.em = false ∧ init.pending.cr0.ts = false ∧ init.pending.cr0.et = true
      ∧ init.pending.sw.es = true := by decide

theorem witness_FxamReportsTheClass : init.Ready true := init_ready _

/-! ### Transcendental instructions -/

theorem witness_TranscendentalValueIsWithinTheBound :
    let b := transReference .f2xm1 half half (Config.transStoredPeriod .f2xm1 half .nearest)
    b.lower.n ≠ 0 ∧ b.den.n ≠ 0 ∧ b.lo ≤ b.hi := by
  decide +kernel

/-- One in fixed point. -/
theorem magVal_fixed_one (b : Nat) : magVal (oneMag.mul { n := 2 ^ b, k := -(b : Int) }) = 1 := by
  simp [magVal, Mag.mul, oneMag]

/-- An offer within the bound: 1 for `2^1 - 1`. -/
theorem witness_TranscendentalValueIsWithinTheBound_offer :
    let b := transReference .f2xm1 one one (Config.transStoredPeriod .f2xm1 one .nearest)
    b.lower.n ≠ 0 ∧ b.den.n ≠ 0 ∧ b.lo ≤ b.hi ∧ inBound b ((0x8000000000000000#64).toNat * 2 ^ (-63 : ℤ)) := by
  refine ⟨by decide +kernel, by decide +kernel, by decide +kernel, ?_⟩
  rw [show transReference .f2xm1 one one (Config.transStoredPeriod .f2xm1 one .nearest) = .exact refOne by decide +kernel]
  have hd : magVal (Bracket.exact refOne).den = 1 := by norm_num [Bracket.exact, magVal, oneMag]
  have hl : magVal (Bracket.exact refOne).lower = 1 := magVal_fixed_one refBits
  have hu : magVal (Bracket.exact refOne).upper = 1 := magVal_fixed_one refBits
  rw [inBound, hd, hl, hu]
  norm_num

theorem witness_OneOperandFunctionsReplaceSt :
    let s := init.stack [one]
    s.Ready true ∧ s.stEmpty 0 = false ∧ classify (s.st 0) = .normal ∧ |(s.st 0).val| ≤ 1
      ∧ |(s.st 0).val| < 2 ^ (63 : ℤ) := by
  refine ⟨⟨rfl, rfl, rfl, fun _ => rfl⟩, by decide +kernel, by decide +kernel, ?_⟩
  rw [show (init.stack [one]).st 0 = one by decide +kernel, val_one]
  constructor <;> norm_num

theorem witness_TwoResultFunctionsPush :
    pair.Ready true ∧ pair.stEmpty 0 = false ∧ pair.full7 = false ∧ classify (pair.st 0) = .normal
      ∧ |(pair.st 0).val| < 2 ^ (63 : ℤ) := by
  refine ⟨pair_ready _, by decide +kernel, by decide +kernel, by decide +kernel, ?_⟩
  rw [show pair.st 0 = three by decide +kernel, val_three]
  norm_num

theorem witness_TrigonometricOperandTooLarge :
    let s := init.stack [large]
    s.Ready true ∧ s.stEmpty 0 = false ∧ s.full7 = false ∧ classify (s.st 0) = .normal ∧ 2 ^ (63 : ℤ) ≤ |(s.st 0).val| := by
  refine ⟨⟨rfl, rfl, rfl, fun _ => rfl⟩, by decide +kernel, by decide +kernel, by decide +kernel, ?_⟩
  rw [show (init.stack [large]).st 0 = large by decide +kernel,
      val_of large 0x403E 0x8000000000000000 (by decide) (by decide) (by decide)]
  norm_num [large, ext, signOf]

theorem witness_TwoOperandFunctionsPop :
    (pair.Ready true ∧ pair.stEmpty 0 = false ∧ pair.stEmpty 1 = false ∧ classify (pair.st 0) = .normal
        ∧ classify (pair.st 1) = .normal ∧ 0 < (pair.st 0).val ∧ (pair.st 0).val ≠ 1)
      ∧ ∃ x : Ext, classify x = .normal ∧ 2 * (1 - |x.val|) ^ 2 > 1 ∧ |x.val| < 1 := by
  refine ⟨⟨pair_ready _, by decide +kernel, by decide +kernel, by decide +kernel, by decide +kernel, ?_⟩,
    ext 0 0x3FFD 0x8000000000000000, by decide +kernel, ?_⟩
  · rw [show pair.st 0 = three by decide +kernel, val_three]
    norm_num
  · rw [val_of _ 0x3FFD 0x8000000000000000 (by decide) (by decide) (by decide)]
    norm_num [ext, signOf]

/-! ### Processor control -/

theorem witness_FninitSetsTheInitialState : init.pending.Ready false := ⟨rfl, rfl, rfl, nofun⟩

theorem witness_FldcwLoadsTheControlWord : init.Ready true ∧ init.Reachable [] m false 2 :=
  ⟨init_ready _, by decide +kernel, by decide +kernel⟩

theorem witness_ControlAndStatusWordsAreStored :
    init.Sound ∧ init.Ready false ∧ controlStore init [] m (.fnstcw [] m) 0x037F ∧ init.Reachable [] m true 2 :=
  ⟨init_sound, init_ready _, Or.inl ⟨rfl, rfl⟩, by decide +kernel, by decide +kernel⟩

theorem witness_FnclexClearsTheExceptions : init.pending.Ready false := ⟨rfl, rfl, rfl, nofun⟩

theorem witness_ImagesAreStored :
    init.Sound ∧ init.Ready false ∧ init.imageFormat [] = .prot32 ∧ init.Reachable [] m true 108 :=
  ⟨init_sound, init_ready _, by decide +kernel, init_reachable_108.1⟩

/-- The other three formats. -/
theorem witness_ImagesAreStored_formats :
    let r := { init with mode := .real }
    init.imageFormat [.opSize] = .prot16 ∧ r.imageFormat [] = .real16 ∧ r.imageFormat [.opSize] = .real32
      ∧ r.Sound ∧ r.Ready true ∧ init.Reachable [.opSize] m true 94
      ∧ r.Reachable [.opSize] (.a16 (.direct 0x1000)) true 108 ∧ r.Reachable [] (.a16 (.direct 0x1000)) true 94 :=
  ⟨by decide +kernel, by decide +kernel, by decide +kernel, ⟨rfl, rfl, rfl, rfl⟩, ⟨rfl, rfl, rfl, fun _ => rfl⟩,
    ⟨by decide +kernel, by decide +kernel⟩, ⟨by decide +kernel, by decide +kernel⟩,
    ⟨by decide +kernel, by decide +kernel⟩⟩

theorem witness_ImagesAreLoaded : init.Ready true ∧ init.Reachable [] m false (init.imageFormat []).stateSize :=
  ⟨init_ready _, init_reachable_108.2⟩

/-- The other three formats. -/
theorem witness_ImagesAreLoaded_formats :
    let r := { init with mode := .real }
    init.Reachable [.opSize] m false 94 ∧ r.Reachable [.opSize] (.a16 (.direct 0x1000)) false 108
      ∧ r.Reachable [] (.a16 (.direct 0x1000)) false 94 :=
  ⟨⟨by decide +kernel, by decide +kernel⟩, ⟨by decide +kernel, by decide +kernel⟩,
    ⟨by decide +kernel, by decide +kernel⟩⟩

theorem witness_SaveThenRestoreGivesTheStateBack :
    pair.Sound ∧ pair.Ready false ∧ pair.Reachable [] m true (pair.imageFormat []).stateSize
      ∧ pair.Reachable [] m false (pair.imageFormat []).stateSize :=
  ⟨pair_sound, pair_ready _, ⟨by decide +kernel, by decide +kernel⟩, ⟨by decide +kernel, by decide +kernel⟩⟩

theorem witness_StackPointerInstructionsMoveTop : init.Ready true := init_ready _

theorem witness_FfreeFnopAndWaitKeepTheRest :
    (init.cr0.mp && init.cr0.ts) = false ∧ init.sw.es = false ∧ init.Ready true :=
  ⟨by decide +kernel, by decide +kernel, init_ready _⟩

end Sys2Proof.Tests
end

/-! # The invariant of R18 (O6)

Every operation of the model keeps a sound state sound: first the updates of the state, then the shared operations,
then the families of instructions, and last the step. -/

namespace Sys2Proof.Machine

/-! ## Memory stays below 2^32 -/

theorem memBelow_cons (c : Host.Cell) (m : List Host.Cell) :
    memBelow (c :: m) = true ↔ c.1 < 2 ^ 32 ∧ memBelow m = true := by
  simp [memBelow]

theorem memBelow_consCell {a : Nat} (v : Byte) {m : List Host.Cell} (ha : a < 2 ^ 32) (hm : memBelow m = true) :
    memBelow (consCell a v m) = true := by
  unfold consCell
  split
  · exact hm
  · exact (memBelow_cons _ _).mpr ⟨ha, hm⟩

theorem memBelow_writeByte {a : Nat} (v : Byte) (ha : a < 2 ^ 32) :
    ∀ {m : List Host.Cell}, memBelow m = true → memBelow (writeByte m a v) = true
  | [], hm => memBelow_consCell v ha hm
  | (b, w) :: rest, hm => by
    obtain ⟨hb, hrest⟩ := (memBelow_cons _ _).mp hm
    unfold writeByte
    split
    · exact memBelow_consCell v ha hm
    · split
      · exact memBelow_consCell v ha hrest
      · exact (memBelow_cons _ _).mpr ⟨hb, memBelow_writeByte v ha hrest⟩

theorem memBelow_writeBytes :
    ∀ {m : List Host.Cell} (as : List Nat) (vs : List Byte), (∀ a ∈ as, a < 2 ^ 32) → memBelow m = true →
      memBelow (writeBytes m as vs) = true
  | _, [], vs, _, hm => by cases vs <;> exact hm
  | _, _ :: _, [], _, hm => hm
  | _, _ :: as, v :: vs, has, hm => by
    obtain ⟨ha, has⟩ := List.forall_mem_cons.mp has
    exact memBelow_writeBytes as vs has (memBelow_writeByte v ha hm)

/-! Every list of addresses that the model stores to is made of 32-bit words. -/

theorem placeAddrs_below (s : State) (p : Place) (n : Nat) : ∀ a ∈ s.placeAddrs p n, a < 2 ^ 32 :=
  List.forall_mem_map.mpr fun _ _ => BitVec.isLt _

theorem reachable_below (s : State) (p : Place) (n : Nat) : ∀ a ∈ s.reachable p n, a < 2 ^ 32 :=
  List.forall_mem_map.mpr fun _ _ => BitVec.isLt _

theorem bytesFrom_below (b : Word32) (n : Nat) : ∀ a ∈ bytesFrom b n, a < 2 ^ 32 :=
  List.forall_mem_map.mpr fun _ _ => BitVec.isLt _

theorem storeInProgress_below (s : State) (i : Instr) : ∀ a ∈ s.storeInProgress i, a < 2 ^ 32 := by
  unfold State.storeInProgress
  split
  · split
    · exact reachable_below s _ _
    · simp
  · simp

/-! ## Updates that leave memory, CW, the flags, ES and B alone

Soundness speaks of nothing else, so these lemmas hold by unfolding. -/

section Updates

variable {s : State} {k i : Fin 8} {v : Ext} {b c3 c2 c0 : Bool}

theorem State.Sound.setC1 (h : s.Sound) : (s.setC1 b).Sound := h
theorem State.Sound.setC2 (h : s.Sound) : (s.setC2 b).Sound := h
theorem State.Sound.setTop (h : s.Sound) : (s.setTop i).Sound := h
theorem State.Sound.setCompare (h : s.Sound) : (s.setCompare c3 c2 c0).Sound := h
theorem State.Sound.unordered (h : s.Sound) : s.unordered.Sound := h
theorem State.Sound.setOrder (h : s.Sound) {o : Ordering} : (s.setOrder o).Sound := by cases o <;> exact h.setCompare
theorem State.Sound.setQuotient (h : s.Sound) {q : Nat} : (s.setQuotient q).Sound := h
theorem State.Sound.drew (h : s.Sound) : s.drew.Sound := h
theorem State.Sound.drawC320 (h : s.Sound) : s.drawC320.Sound := h
theorem State.Sound.drawC320ClearC1 (h : s.Sound) : s.drawC320ClearC1.Sound := h
theorem State.Sound.drawC30 (h : s.Sound) : s.drawC30.Sound := h
theorem State.Sound.drawC2 (h : s.Sound) : s.drawC2.Sound := h
theorem State.Sound.drawC1 (h : s.Sound) : s.drawC1.Sound := h
theorem State.Sound.drawC3210 (h : s.Sound) : s.drawC3210.Sound := h
theorem State.Sound.putReg (h : s.Sound) : (s.putReg k v).Sound := h
theorem State.Sound.putSt (h : s.Sound) : (s.putSt i v).Sound := h
theorem State.Sound.putExact (h : s.Sound) : (s.putExact k v).Sound := h
theorem State.Sound.freeReg (h : s.Sound) : (s.freeReg k).Sound := h
theorem State.Sound.setEmpty (h : s.Sound) {e : Vector Bool 8} : State.Sound { s with empty := e } := h
theorem State.Sound.push (h : s.Sound) : (s.push v).Sound := h
theorem State.Sound.pop (h : s.Sound) : s.pop.Sound := h
theorem State.Sound.pop2 (h : s.Sound) : s.pop2.Sound := h
theorem State.Sound.loadStack (h : s.Sound) {bs : List Byte} : (s.loadStack bs).Sound := h
theorem State.Sound.loadPointers (h : s.Sound) {bs : List Byte} {f : ImageFormat} : (s.loadPointers bs f).Sound := by
  cases f <;> exact h
theorem State.Sound.setAx (h : s.Sound) {w : Word16} : (s.setAx w).Sound := h
theorem State.Sound.sahf (h : s.Sound) : s.sahf.Sound := h
theorem State.Sound.synced (h : s.Sound) : s.synced.Sound := h
theorem State.Sound.dropInput (h : s.Sound) : s.dropInput.Sound := h
theorem State.Sound.advance (h : s.Sound) {j : Instr} : (s.advance j).Sound := h
theorem State.Sound.recordMem (h : s.Sound) {j : Instr} {p : FarPtr} : (s.recordMem j p).Sound := h
theorem State.Sound.recordReg (h : s.Sound) {j : Instr} : (s.recordReg j).Sound := h
theorem State.Sound.enter (h : s.Sound) {t : Trap} {ret : Word32} : (s.enter t ret).Sound := h
theorem State.Sound.takeTrap (h : s.Sound) {t : Trap} : (s.takeTrap t).Sound := h.enter

theorem State.Sound.noted (h : s.Sound) {m : Manner} {w : Bool} {as : List Nat} : (s.noted m w as).Sound := by
  unfold State.noted
  split
  · split <;> exact h
  · exact h

theorem State.Sound.returnFromTrap {t : State} (h : s.Sound) (ht : s.returnFromTrap = some t) : t.Sound := by
  unfold State.returnFromTrap at ht
  split at ht
  · cases ht
  · cases ht
    exact h

end Updates

/-! ## Updates that set flags or load words: R18 holds afterwards -/

section Words

variable {s : State}

theorem State.Sound.raise (h : s.Sound) {x : Exc} : (s.raise x).Sound := by
  obtain ⟨hwf, hbelow, hsummary⟩ := h
  exact ⟨hwf, hbelow, raise_summaryHolds x hsummary⟩

theorem State.Sound.raiseIf (h : s.Sound) {b : Bool} {x : Exc} : (s.raiseIf b x).Sound := by
  cases b
  · exact h
  · exact h.raise

theorem State.Sound.raiseAll {fs : List Exc} (h : s.Sound) : (s.raiseAll fs).Sound := by
  induction fs generalizing s with
  | nil => exact h
  | cons x fs ih => exact ih h.raise

/-- SF and C1 are no part of R18, so a stack fault is `raise IE` to it (R410). -/
theorem State.Sound.stackFault (h : s.Sound) {o : Bool} : (s.stackFault o).Sound :=
  State.Sound.raise (s := { s with sw := { s.sw with sf := true, c1 := o } }) h

theorem State.Sound.loadWords (h : s.Sound) {cw : Word16} {w : StatusWord} : (s.loadWords cw w).Sound := by
  obtain ⟨hwf, hbelow, -⟩ := h
  exact ⟨hwf, hbelow, summarise_holds cw w⟩

theorem State.Sound.drawPe (h : s.Sound) : s.drawPe.Sound := by
  obtain ⟨hwf, hbelow, -⟩ := h
  exact ⟨hwf, hbelow, summarise_holds s.cw _⟩

theorem State.Sound.loadEnv (h : s.Sound) {f : ImageFormat} {bs : List Byte} : (s.loadEnv f bs).Sound := by
  unfold State.loadEnv
  exact State.Sound.loadPointers (State.Sound.setEmpty h.loadWords)

theorem State.Sound.maskAll (h : s.Sound) : s.maskAll.Sound := h.loadWords

/-- Without a flag nothing is unmasked, and FNCLEX clears ES and B with the flags (R336). -/
theorem State.Sound.clearExceptions (h : s.Sound) : (s.setSw s.sw.clearExceptions).Sound := by
  obtain ⟨hwf, hbelow, -⟩ := h
  exact ⟨hwf, hbelow, rfl, rfl⟩

theorem State.Sound.initNpx (h : s.Sound) : s.initNpx.Sound := by
  obtain ⟨hwf, hbelow, -⟩ := h
  exact ⟨hwf, hbelow, rfl, rfl⟩

/-- After RESET the flag IE is set and unmasked, and ES and B are set (R44, R461). -/
theorem State.Sound.resetEvent (h : s.Sound) : s.resetEvent.Sound := by
  obtain ⟨hwf, hbelow, -⟩ := h
  have hes : StatusWord.reset.es = unmaskedFlag 0x037E StatusWord.reset := by decide
  exact ⟨hwf, hbelow, hes, rfl⟩

theorem State.Sound.redrawNpx (h : s.Sound) : s.redrawNpx.Sound := by
  obtain ⟨hwf, hbelow, -⟩ := h
  exact ⟨hwf, hbelow, summarise_holds _ _⟩

theorem State.Sound.unsettle (h : s.Sound) : s.unsettle.Sound := by
  unfold State.unsettle
  split
  · exact h.redrawNpx
  · exact h

end Words

/-! ## Stores -/

section Stores

variable {s : State} {as : List Nat}

theorem State.Sound.store (h : s.Sound) (has : ∀ a ∈ as, a < 2 ^ 32) {bs : List Byte} : (s.store as bs).Sound := by
  obtain ⟨hwf, hbelow, hsummary⟩ := h
  exact ⟨writeBytes_wf hwf as bs, memBelow_writeBytes as bs has hbelow, hsummary⟩

theorem State.Sound.drawBytes (h : s.Sound) (has : ∀ a ∈ as, a < 2 ^ 32) : (s.drawBytes as).Sound := by
  induction as generalizing s with
  | nil => exact h
  | cons a as ih =>
    obtain ⟨ha, has⟩ := List.forall_mem_cons.mp has
    exact ih (h.drew.store (by simpa using ha)) has

theorem State.Sound.takeOverrun (h : s.Sound) (has : ∀ a ∈ as, a < 2 ^ 32) : (s.takeOverrun as).Sound :=
  (h.drawBytes has).redrawNpx

theorem State.Sound.resetInStore (h : s.Sound) : s.resetInStore.Sound := by
  unfold State.resetInStore
  split
  · exact (h.drawBytes (storeInProgress_below s _)).resetEvent
  · exact h.resetEvent

end Stores

/-! ## What keeps sound states sound -/

/-- A change of the state that leads from sound states to sound states only. -/
def KeepsSound (f : State → State) : Prop := ∀ s : State, s.Sound → (f s).Sound

/-- If the machine goes on, it goes on in a sound state. -/
def NextSound (r : Result) : Prop := ∀ t : State, r = .next t → t.Sound

theorem keepsSound_id : KeepsSound id := fun _ h => h
theorem keepsSound_pop : KeepsSound State.pop := fun _ h => h.pop
theorem keepsSound_pop2 : KeepsSound State.pop2 := fun _ h => h.pop2

theorem nextSound_next {t : State} (h : t.Sound) : NextSound (.next t) := by
  intro u hu
  cases hu
  exact h

theorem nextSound_fault (f : Fault) : NextSound (.fault f) := fun _ h => by cases h
theorem nextSound_refused (r : Refusal) : NextSound (.refused r) := fun _ h => by cases h

/-! ## Responses and delivery (R134, R165, R300, R403, R410) -/

section Responses

variable {s : State} {k : Fin 8} {x : Exc} {resp : State → State} {respS : State → Stored}

theorem State.Sound.respond (h : s.Sound) (hr : KeepsSound resp) : (s.respond x resp).Sound := by
  rcases respond_cases s x resp with ⟨_, e⟩ | ⟨_, e⟩ <;> rw [e]
  · exact hr _ h.raise
  · exact h.raise

theorem State.Sound.faultThen (h : s.Sound) {o : Bool} (hr : KeepsSound resp) : (s.faultThen o resp).Sound := by
  rcases faultThen_cases s o resp with ⟨_, e⟩ | ⟨_, e⟩ <;> rw [e]
  · exact hr _ h.stackFault
  · exact h.stackFault

theorem State.Sound.denormThen (h : s.Sound) {d : Bool} (hr : KeepsSound resp) : (s.denormThen d resp).Sound := by
  rcases denormThen_cases s d resp with ⟨_, e⟩ | ⟨_, e⟩ <;> rw [e]
  · exact hr _ h
  · exact h.respond hr

theorem State.Sound.respondStore (h : s.Sound) (hr : KeepsSound fun u => (respS u).1) :
    (s.respondStore x respS).1.Sound := by
  unfold State.respondStore
  split
  · exact hr _ h.raise
  · exact h.raise

theorem State.Sound.faultStore (h : s.Sound) (hr : KeepsSound fun u => (respS u).1) :
    (s.faultStore respS).1.Sound := by
  unfold State.faultStore
  split
  · exact hr _ h.stackFault
  · exact h.stackFault

theorem State.Sound.deliverTo (h : s.Sound) {d : Delivery Ext} : (s.deliverTo k d).Sound :=
  h.raiseAll.setC1.putReg

theorem State.Sound.deliverSt (h : s.Sound) {neg : Bool} {m : Mag} {p : Nat} : (s.deliverSt k neg m p).Sound :=
  h.deliverTo

theorem State.Sound.deliverTrans (h : s.Sound) {v : Bool × Mag} {up : Bool} : (s.deliverTrans k v up).Sound :=
  h.raiseAll.raise.setC1.putReg

theorem State.Sound.deliverRem (h : s.Sound) {neg flip : Bool} {m : Mag} : (s.deliverRem neg flip m).Sound := by
  unfold State.deliverRem
  split
  · exact h.putReg
  · exact h.raiseAll.putReg

theorem State.Sound.putPi (h : s.Sound) {num j : Nat} {neg : Bool} : (s.putPi k num j neg).Sound :=
  h.raise.setC1.putReg

theorem State.Sound.putUndefined (h : s.Sound) : (s.putUndefined k).Sound := h.drew.putReg.drawC1.drawPe

theorem State.Sound.storeBcdIndefinite (h : s.Sound) : s.storeBcdIndefinite.1.Sound := h.drew.pop

end Responses

/-! ## The prelude (R200 (a), R331 (b), R425, R430 to R434) -/

section Prelude

variable {k : Manner} {i : Instr} {m : MemOp} {n : Nat} {s : State}

theorem State.Sound.waited (h : s.Sound) : (s.waited k).Sound := by
  unfold State.waited
  split
  · exact h.synced
  · exact h

theorem State.Sound.started (h : s.Sound) {w : Bool} : (s.started k i m w n).Sound := by
  have hw : (s.waited k).Sound := h.waited
  unfold State.started
  refine State.Sound.noted ?_
  split
  · exact hw.recordMem
  · exact hw

theorem State.Sound.gated {t : State} (h : s.Sound) (hg : gated k s t) : t.Sound := by
  rcases hg with ⟨_, rfl⟩ | ⟨_, _, rfl⟩
  · exact h.takeTrap
  · exact h.synced.takeTrap

theorem escReg_nextSound {body : State → Result} (h : s.Sound) (hb : ∀ u : State, u.Sound → NextSound (body u)) :
    NextSound (escReg k i s body) := by
  intro t ht
  rcases escReg_next ht with hg | ⟨_, hgo⟩
  · exact h.gated hg
  · refine hb _ ?_ t hgo
    split
    · exact h.waited.recordReg
    · exact h.waited

theorem escLoad_nextSound {body : List Byte → State → Result} (h : s.Sound)
    (hb : ∀ (bs : List Byte) (u : State), u.Sound → NextSound (body bs u)) : NextSound (escLoad k i m n s body) := by
  intro t ht
  rcases escLoad_next ht with hg | ⟨_, _, _, rfl⟩ | ⟨_, rfl⟩ | ⟨_, hgo⟩
  · exact h.gated hg
  · exact h.waited.takeTrap
  · exact h.started.takeOverrun (by simp)
  · exact hb _ _ h.started t hgo

theorem escStore_nextSound {body : State → Stored} (h : s.Sound) (hb : KeepsSound fun u => (body u).1) :
    NextSound (escStore k i m n s body) := by
  intro t ht
  have hbody : (body (s.started k i m true n)).1.Sound := hb _ h.started
  rcases escStore_next ht with hg | ⟨_, _, _, rfl⟩ | ⟨_, u, e, rfl⟩ | ⟨_, rfl⟩ | ⟨_, u, bs, e, rfl⟩
  · exact h.gated hg
  · exact h.waited.takeTrap
  · rw [e] at hbody
    exact hbody.advance
  · exact h.started.takeOverrun (reachable_below s _ n)
  · rw [e] at hbody
    exact (hbody.store (placeAddrs_below s _ n)).advance

/-- A reserved encoding goes on only by an interrupt (R105, R425, R430). -/
theorem reservedEsc_nextSound (h : s.Sound) : NextSound (reservedEsc s) := by
  intro t ht
  rcases escStart_next ht with ⟨_, rfl⟩ | ⟨_, _, rfl⟩ | ⟨_, hf⟩
  · exact h.takeTrap
  · exact h.synced.takeTrap
  · cases hf

theorem numReg_nextSound {body : State → State} (h : s.Sound) (hb : KeepsSound body) : NextSound (numReg i s body) :=
  escReg_nextSound h fun u hu => nextSound_next (hb u hu).advance

theorem numLoad_nextSound {body : List Byte → State → State} (h : s.Sound) (hb : ∀ bs, KeepsSound (body bs)) :
    NextSound (numLoad i m n s body) :=
  escLoad_nextSound h fun bs u hu => nextSound_next (hb bs u hu).advance

theorem numStore_nextSound {body : State → Stored} (h : s.Sound) (hb : KeepsSound fun u => (body u).1) :
    NextSound (numStore i m n s body) := escStore_nextSound h hb

theorem withPrecision_nextSound {body : Nat → State → State} (h : s.Sound) (hb : ∀ p, KeepsSound (body p)) :
    NextSound (withPrecision i s body) := by
  rcases withPrecision_cases i s body with ⟨_, e⟩ | ⟨p, _, e⟩ <;> rw [e]
  · exact nextSound_fault _
  · exact nextSound_next (hb p s h).advance

theorem numRegP_nextSound {body : Nat → State → State} (h : s.Sound) (hb : ∀ p, KeepsSound (body p)) :
    NextSound (numRegP i s body) :=
  escReg_nextSound h fun _ hu => withPrecision_nextSound hu hb

theorem numLoadP_nextSound {body : List Byte → Nat → State → State} (h : s.Sound)
    (hb : ∀ bs p, KeepsSound (body bs p)) : NextSound (numLoadP i m n s body) :=
  escLoad_nextSound h fun bs _ hu => withPrecision_nextSound hu (hb bs)

end Prelude

/-! ## The basic operations (R230 to R242, R253 to R258) -/

section Arithmetic

variable {op : ArithOp} {o : Order} {k d i : Fin 8} {x y : Ext} {memden : Bool} {p : Nat} {fin : State → State}

theorem arithNumbers_keepsSound (hfin : KeepsSound fin) : KeepsSound (arithNumbers op k x y memden p fin) := by
  intro s h
  unfold arithNumbers
  split
  · exact h.respond fun u hu => hfin _ hu.putExact
  split
  · exact h.respond fun u hu => hfin _ hu.putExact
  · refine h.denormThen fun u hu => ?_
    split
    · exact hfin _ hu.putExact
    · exact hfin _ hu.deliverSt

theorem arith_keepsSound (hfin : KeepsSound fin) : KeepsSound (arith op k x y memden p fin) := by
  intro s h
  unfold arith
  split
  · exact h.respond fun u hu => hfin _ hu.putExact
  split
  · exact h.respond fun u hu => hfin _ hu.putExact
  split
  · exact hfin _ h.putExact
  split
  · exact arithNumbers_keepsSound hfin s h
  · exact arithNumbers_keepsSound hfin s h

theorem arithOrdered_keepsSound (hfin : KeepsSound fin) : KeepsSound (arithOrdered op o k x y memden p fin) := by
  cases o
  · exact arith_keepsSound hfin
  · exact arith_keepsSound hfin

theorem arithRegs_keepsSound (hfin : KeepsSound fin) (p : Nat) : KeepsSound (arithRegs op o d i fin p) := by
  intro s h
  have hd : s.drawC320.Sound := h.drawC320
  unfold arithRegs
  dsimp only
  split
  · exact hd.faultThen fun u hu => hfin _ hu.putSt
  · exact arithOrdered_keepsSound hfin _ hd

theorem arithMem_keepsSound : KeepsSound (arithMem op o y memden p) := by
  intro s h
  have hd : s.drawC320.Sound := h.drawC320
  unfold arithMem
  dsimp only
  split
  · exact hd.faultThen fun u hu => hu.putSt
  · exact arithOrdered_keepsSound keepsSound_id _ hd

theorem arithReal_keepsSound {f : Fmt} (bs : List Byte) (p : Nat) : KeepsSound (arithReal op o f bs p) :=
  arithMem_keepsSound

theorem arithInt_keepsSound (bs : List Byte) (p : Nat) : KeepsSound (arithInt op o bs p) := arithMem_keepsSound

end Arithmetic

/-! ## Instructions with one operand (R243 to R252) -/

section OneOperand

variable {dup go : Ext → State → State}

theorem noDup_keepsSound (v : Ext) : KeepsSound (noDup v) := fun _ h => h
theorem push_keepsSound (v : Ext) : KeepsSound fun s => s.push v := fun _ h => h.push

theorem oneOperand_keepsSound (hdup : ∀ v, KeepsSound (dup v)) (hgo : ∀ x, KeepsSound (go x)) :
    KeepsSound (oneOperand dup go) := by
  intro s h
  unfold oneOperand
  dsimp only
  split
  · exact h.faultThen fun u hu => hdup _ _ hu.putReg
  split
  · exact h.respond fun u hu => hdup _ _ hu.putExact
  split
  · exact h.respond fun u hu => hdup _ _ hu.putExact
  split
  · exact hdup _ _ h.setC1
  · exact hgo _ s h

theorem oneOperandPush_keepsSound (hgo : ∀ x, KeepsSound (go x)) : KeepsSound (oneOperandPush go) := by
  intro s h
  unfold oneOperandPush
  split
  · exact h.faultThen fun u hu => hu.putSt.push
  · exact oneOperand_keepsSound push_keepsSound hgo s h

theorem squareRoot_keepsSound (p : Nat) : KeepsSound (squareRoot p) := by
  refine fun s h => oneOperand_keepsSound noDup_keepsSound (fun x u hu => ?_) _ h.drawC320
  split
  · exact hu.setC1
  split
  · exact hu.respond fun v hv => hv.putExact
  split
  · exact hu.setC1
  · exact hu.denormThen fun v hv => hv.deliverSt

theorem roundToInteger_keepsSound : KeepsSound roundToInteger := by
  refine fun s h => oneOperand_keepsSound noDup_keepsSound (fun x u hu => ?_) _ h.drawC320
  dsimp only
  split
  · exact hu.setC1
  · refine hu.denormThen fun v hv => ?_
    split
    · exact hv.setC1
    · exact hv.raiseIf.setC1.putReg

theorem extract_keepsSound : KeepsSound extract := by
  refine fun s h => oneOperandPush_keepsSound (fun x u hu => ?_) _ h.drawC320ClearC1
  split
  · exact hu.respond fun v hv => hv.putReg.push
  split
  · exact hu.putReg.push
  · exact hu.denormThen fun v hv => hv.putReg.push

theorem changeSign_keepsSound {f : Bool → Bool} : KeepsSound (changeSign f) := by
  intro s h
  have hd : s.drawC320ClearC1.Sound := h.drawC320ClearC1
  unfold changeSign
  dsimp only
  split
  · exact hd.faultThen fun u hu => hu.putSt
  · exact hd.putReg

end OneOperand

/-! ## Instructions with the operands ST and ST(1) (R246, R262, R263) -/

section TwoOperands

theorem twoOperands_keepsSound {d : Fin 8} {put : State → Fin 8 → Ext → State} {fin : State → State}
    {go : Ext → Ext → State → State} (hput : ∀ k v, KeepsSound fun s => put s k v) (hfin : KeepsSound fin)
    (hgo : ∀ x y, KeepsSound (go x y)) : KeepsSound (twoOperands d put fin go) := by
  intro s h
  unfold twoOperands
  dsimp only
  split
  · exact h.faultThen fun u hu => hfin _ hu.putReg
  split
  · exact h.respond fun u hu => hfin _ (hput _ _ u hu)
  split
  · exact h.respond fun u hu => hfin _ (hput _ _ u hu)
  split
  · exact hfin _ (hput _ _ s h)
  · exact hgo _ _ s h

theorem putExact_keepsSound (k : Fin 8) (v : Ext) : KeepsSound fun s => s.putExact k v := fun _ h => h.putExact
theorem putReg_keepsSound (k : Fin 8) (v : Ext) : KeepsSound fun s => s.putReg k v := fun _ h => h.putReg

theorem scaleBy_keepsSound : KeepsSound scaleBy := by
  refine fun s h => twoOperands_keepsSound putExact_keepsSound keepsSound_id (fun x y u hu => ?_) _ h.drawC320
  split
  · exact hu.respond fun v hv => hv.putExact
  · refine hu.denormThen fun v hv => ?_
    split
    · exact hv.setC1
    split
    · exact hv.putExact
    split
    · exact hv.setC1
    · exact hv.deliverSt

theorem remNumbers_keepsSound {nearest : Bool} {x y : Ext} : KeepsSound (remNumbers nearest x y) := by
  intro s h
  unfold remNumbers
  dsimp only
  split
  · exact h.setQuotient
  split
  · split
    · exact h.setQuotient.deliverRem
    · exact h.setQuotient.deliverRem
  · exact h.setCompare.setC1.deliverRem

theorem remainder_keepsSound {nearest : Bool} : KeepsSound (remainder nearest) := by
  refine fun s h => twoOperands_keepsSound putReg_keepsSound keepsSound_id (fun x y u hu => ?_) _ h.drawC3210
  split
  · exact hu.setC2.respond fun v hv => hv.putReg
  · exact hu.denormThen remNumbers_keepsSound

end TwoOperands

/-! ## Comparisons (R280 to R291) -/

section Comparisons

variable {fin : State → State} {quietOk memden : Bool}

theorem compare2_keepsSound {x y : Ext} (hfin : KeepsSound fin) : KeepsSound (compare2 x y memden quietOk fin) := by
  intro s h
  have hc : (s.setC1 false).Sound := h.setC1
  unfold compare2
  dsimp only
  split
  · exact hc.unordered.respond hfin
  split
  · exact hfin _ hc.unordered
  split
  · split
    · exact hfin _ hc.raise.setOrder
    · exact hc.raise.drawC320
  · exact hfin _ hc.setOrder

theorem compareFault_keepsSound (hfin : KeepsSound fin) : KeepsSound (compareFault fin) :=
  fun _ h => h.unordered.faultThen hfin

theorem compareMem_keepsSound {y : Ext} (hfin : KeepsSound fin) : KeepsSound (compareMem y memden fin) := by
  intro s h
  unfold compareMem
  split
  · exact compareFault_keepsSound hfin s h
  · exact compare2_keepsSound hfin s h

theorem compareReg_keepsSound {i : Fin 8} (hfin : KeepsSound fin) : KeepsSound (compareReg i quietOk fin) := by
  intro s h
  unfold compareReg
  split
  · exact compareFault_keepsSound hfin s h
  · exact compare2_keepsSound hfin s h

theorem compareReal_keepsSound {f : Fmt} (hfin : KeepsSound fin) (bs : List Byte) :
    KeepsSound (compareReal f bs fin) := compareMem_keepsSound hfin

theorem compareInt_keepsSound (hfin : KeepsSound fin) (bs : List Byte) : KeepsSound (compareInt bs fin) :=
  compareMem_keepsSound hfin

theorem examine_keepsSound : KeepsSound examine := by
  intro s h
  unfold examine
  dsimp only
  split
  · exact h.setC1.setCompare
  · split <;> exact h.setC1.setCompare

end Comparisons

/-! ## Loads, constants, stores and exchange (R201 to R211, R321) -/

section Transfer

variable {fin : State → State}

theorem loadReal_keepsSound {f : Fmt} {w : Nat} : KeepsSound (loadReal f w) := by
  intro s h
  have hd : s.drawC320ClearC1.Sound := h.drawC320ClearC1
  unfold loadReal
  dsimp only
  split
  · exact hd.faultThen (push_keepsSound _)
  split
  · exact hd.respond (push_keepsSound _)
  · exact hd.denormThen (push_keepsSound _)

theorem loadPlain_keepsSound {x : Ext} : KeepsSound (loadPlain x) := by
  intro s h
  have hd : s.drawC320ClearC1.Sound := h.drawC320ClearC1
  unfold loadPlain
  dsimp only
  split
  · exact hd.faultThen (push_keepsSound _)
  · exact hd.push

theorem loadConst_keepsSound {c : Mag} : KeepsSound (loadConst c) := fun s h => loadPlain_keepsSound s h

theorem loadSt_keepsSound {i : Fin 8} : KeepsSound (loadSt i) := by
  intro s h
  have hd : s.drawC320ClearC1.Sound := h.drawC320ClearC1
  unfold loadSt
  dsimp only
  split
  · exact hd.faultThen (push_keepsSound _)
  split
  · exact hd.faultThen (push_keepsSound _)
  · exact hd.push

theorem loadBcd_keepsSound {w : Nat} : KeepsSound (loadBcd w) := by
  intro s h
  have hd : s.drawC320ClearC1.Sound := h.drawC320ClearC1
  unfold loadBcd
  dsimp only
  split
  · exact hd.faultThen (push_keepsSound _)
  split
  · exact hd.push
  · exact hd.drew.push

theorem storeSt_keepsSound {i : Fin 8} (hfin : KeepsSound fin) : KeepsSound (storeSt i fin) := by
  intro s h
  have hd : s.drawC320.Sound := h.drawC320
  unfold storeSt
  dsimp only
  split
  · exact hd.faultThen fun u hu => hfin _ hu.putSt
  · exact hfin _ hd.putExact

theorem exchange_keepsSound {i : Fin 8} : KeepsSound (exchange i) := by
  intro s h
  have hd : s.drawC320ClearC1.Sound := h.drawC320ClearC1
  unfold exchange
  dsimp only
  -- which two values are exchanged plays no part
  generalize (if s.drawC320ClearC1.stEmpty 0 then indefinite else s.drawC320ClearC1.st 0) = a
  generalize (if s.drawC320ClearC1.stEmpty i then indefinite else s.drawC320ClearC1.st i) = b
  split
  · exact hd.faultThen fun u hu => hu.putSt.putSt
  · exact hd.putSt.putSt

theorem storeFinite_keepsSound {f : Fmt} {x : Ext} (hfin : KeepsSound fin) :
    KeepsSound fun s => (storeFinite f x fin s).1 := by
  intro s h
  unfold storeFinite
  dsimp only
  split
  · exact h.raiseAll
  · exact hfin _ h.raiseAll.setC1

theorem storeReal_keepsSound {f : Fmt} (hfin : KeepsSound fin) : KeepsSound fun s => (storeReal f fin s).1 := by
  intro s h
  have hd : s.drawC320.Sound := h.drawC320
  have hclear : KeepsSound fun u => fin (u.setC1 false) := fun u hu => hfin _ hu.setC1
  unfold storeReal
  dsimp only
  split
  · exact hd.faultStore hfin
  · split
    · exact hd.respondStore hclear
    · exact hd.respondStore hclear
    · exact hclear _ hd
    · exact hclear _ hd
    · exact hclear _ hd
    · exact hd.respondStore (storeFinite_keepsSound hfin)
    · exact hd.respondStore (storeFinite_keepsSound hfin)
    · exact storeFinite_keepsSound hfin _ hd

theorem storeExt_keepsSound : KeepsSound fun s => (storeExt s).1 := by
  intro s h
  have hd : s.drawC320ClearC1.Sound := h.drawC320ClearC1
  unfold storeExt
  dsimp only
  split
  · exact hd.faultStore keepsSound_pop
  · exact hd.pop

theorem storeInt_keepsSound {n : Nat} (hfin : KeepsSound fin) : KeepsSound fun s => (storeInt n fin s).1 := by
  intro s h
  have hd : s.drawC320.Sound := h.drawC320
  unfold storeInt
  dsimp only
  split
  · exact hd.faultStore hfin
  split
  · exact hd.respondStore fun u hu => hfin _ hu.setC1
  · exact hfin _ hd.raiseIf.setC1

theorem storeBcd_keepsSound : KeepsSound fun s => (storeBcd s).1 := by
  intro s h
  have hd : s.drawC320.Sound := h.drawC320
  unfold storeBcd
  dsimp only
  split
  · exact hd.faultStore fun u hu => hu.storeBcdIndefinite
  split
  · exact hd.respondStore fun u hu => hu.setC1.storeBcdIndefinite
  · exact hd.raiseIf.setC1.pop

end Transfer

/-! ## Transcendental instructions (R300 to R312) -/

section Transcendental

variable {dup go : Ext → State → State}

theorem trigNumber_keepsSound (hdup : ∀ v, KeepsSound (dup v)) (hgo : ∀ x, KeepsSound (go x)) (x : Ext) :
    KeepsSound (trigNumber dup go x) := by
  intro s h
  unfold trigNumber
  split
  · exact h.drawC1.setC2.respond fun u hu => hdup _ _ hu.putReg
  · refine h.denormThen fun u hu => ?_
    split
    · exact hu.drawC1.setC2
    · exact hgo x _ hu.setC2

theorem trigOne_keepsSound (hgo : ∀ x, KeepsSound (go x)) : KeepsSound (trigOne go) :=
  fun _ h => oneOperand_keepsSound noDup_keepsSound (trigNumber_keepsSound noDup_keepsSound hgo) _ h.drawC30.drawC2

theorem trigTwo_keepsSound (hgo : ∀ x, KeepsSound (go x)) : KeepsSound (trigTwo go) :=
  fun _ h => oneOperandPush_keepsSound (trigNumber_keepsSound push_keepsSound hgo) _ h.drawC30.drawC2

theorem sine_keepsSound : KeepsSound sine := by
  refine trigOne_keepsSound fun x u hu => ?_
  split
  · exact hu.setC1
  · exact hu.deliverTrans

theorem cosine_keepsSound : KeepsSound cosine := by
  refine trigOne_keepsSound fun x u hu => ?_
  split
  · exact hu.putExact
  · exact hu.deliverTrans

theorem sineCosine_keepsSound : KeepsSound sineCosine := by
  refine trigTwo_keepsSound fun x u hu => ?_
  split
  · exact hu.push.setC1
  · exact hu.deliverTrans.push.raise

theorem tangent_keepsSound : KeepsSound tangent := by
  refine trigTwo_keepsSound fun x u hu => ?_
  split
  · exact hu.push.setC1
  · exact hu.deliverTrans.push

theorem arctangent_keepsSound : KeepsSound arctangent := by
  refine fun s h => twoOperands_keepsSound putExact_keepsSound keepsSound_pop (fun x y u hu => ?_) _ h.drawC320
  refine hu.denormThen fun v hv => ?_
  split
  · exact hv.putExact.pop
  · exact hv.putPi.pop
  · exact hv.deliverTrans.pop

theorem exponential_keepsSound : KeepsSound exponential := by
  refine fun s h => oneOperand_keepsSound noDup_keepsSound (fun x u hu => ?_) _ h.drawC320
  split
  · split
    · exact hu.putExact
    · exact hu.setC1
  split
  · exact hu.setC1
  · refine hu.denormThen fun v hv => ?_
    split
    · exact hv.putUndefined
    · exact hv.deliverTrans

theorem logarithm_keepsSound : KeepsSound logarithm := by
  refine fun s h => twoOperands_keepsSound putExact_keepsSound keepsSound_pop (fun x y u hu => ?_) _ h.drawC320
  split
  · exact hu.respond fun v hv => hv.putExact.pop
  split
  · exact hu.respond fun v hv => hv.putExact.pop
  · refine hu.denormThen fun v hv => ?_
    split
    · exact hv.putExact.pop
    · exact hv.deliverTrans.pop

theorem logarithmPlusOne_keepsSound : KeepsSound logarithmPlusOne := by
  refine fun s h => twoOperands_keepsSound putExact_keepsSound keepsSound_pop (fun x y u hu => ?_) _ h.drawC320
  split
  · exact hu.respond fun v hv => hv.putExact.pop
  · refine hu.denormThen fun v hv => ?_
    split
    · exact hv.putExact.pop
    · split
      · exact hv.deliverTrans.pop
      · exact hv.putUndefined.pop

end Transcendental

/-! ## Processor control and WAIT (R330 to R360) -/

section Control

variable {q : List Prefix} {m : MemOp} {s : State}

theorem execFninit_nextSound (h : s.Sound) : NextSound (execFninit q s) :=
  escReg_nextSound h fun _ hu => nextSound_next hu.initNpx

theorem execFldcw_nextSound (h : s.Sound) : NextSound (execFldcw q m s) :=
  escLoad_nextSound h fun _ _ hu => nextSound_next hu.drawC3210.loadWords.advance

theorem execFnstcw_nextSound (h : s.Sound) : NextSound (execFnstcw q m s) :=
  escStore_nextSound h fun _ hu => hu.drawC3210

theorem execFnstswM16_nextSound (h : s.Sound) : NextSound (execFnstswM16 q m s) :=
  escStore_nextSound h fun _ hu => hu.drawC3210

theorem execFnstswAx_nextSound (h : s.Sound) : NextSound (execFnstswAx q s) :=
  escReg_nextSound h fun _ hu => nextSound_next hu.drawC3210.setAx.advance

theorem execFnclex_nextSound (h : s.Sound) : NextSound (execFnclex q s) :=
  escReg_nextSound h fun _ hu => nextSound_next hu.drawC3210.clearExceptions.advance

theorem execFnstenv_nextSound (h : s.Sound) : NextSound (execFnstenv q m s) :=
  escStore_nextSound h fun _ hu => hu.drew.drawC3210.maskAll

theorem execFldenv_nextSound (h : s.Sound) : NextSound (execFldenv q m s) :=
  escLoad_nextSound h fun _ _ hu => nextSound_next hu.loadEnv.advance

theorem execFnsave_nextSound (h : s.Sound) : NextSound (execFnsave q m s) :=
  escStore_nextSound h fun _ hu => hu.drew.initNpx

theorem execFrstor_nextSound (h : s.Sound) : NextSound (execFrstor q m s) :=
  escLoad_nextSound h fun _ _ hu => nextSound_next hu.loadEnv.loadStack.advance

theorem execFincstp_nextSound (h : s.Sound) : NextSound (execFincstp q s) :=
  numReg_nextSound h fun _ hu => hu.drawC320ClearC1.setTop

theorem execFdecstp_nextSound (h : s.Sound) : NextSound (execFdecstp q s) :=
  numReg_nextSound h fun _ hu => hu.drawC320ClearC1.setTop

theorem execWait_nextSound (h : s.Sound) : NextSound (execWait q s) := by
  unfold execWait
  split
  · exact nextSound_next h.takeTrap
  split
  · exact nextSound_next h.synced.takeTrap
  · exact nextSound_next h.synced.advance

end Control

/-! ## Every instruction -/

/-- An instruction leads from a sound state to sound states only, whatever way it ends. -/
theorem exec_nextSound (i : Instr) {s : State} (h : s.Sound) : NextSound (exec i s) := by
  unfold exec
  cases i with
  | faddM32 | fmulM32 | fsubM32 | fsubrM32 | fdivM32 | fdivrM32
  | faddM64 | fmulM64 | fsubM64 | fsubrM64 | fdivM64 | fdivrM64 =>
    exact numLoadP_nextSound h arithReal_keepsSound
  | fiaddI16 | fimulI16 | fisubI16 | fisubrI16 | fidivI16 | fidivrI16
  | fiaddI32 | fimulI32 | fisubI32 | fisubrI32 | fidivI32 | fidivrI32 =>
    exact numLoadP_nextSound h arithInt_keepsSound
  | faddStSti | fmulStSti | fsubStSti | fsubrStSti | fdivStSti | fdivrStSti
  | faddStiSt | fmulStiSt | fsubStiSt | fsubrStiSt | fdivStiSt | fdivrStiSt =>
    exact numRegP_nextSound h (arithRegs_keepsSound keepsSound_id)
  | faddp | fmulp | fsubp | fsubrp | fdivp | fdivrp =>
    exact numRegP_nextSound h (arithRegs_keepsSound keepsSound_pop)
  | fsqrt => exact numRegP_nextSound h squareRoot_keepsSound
  | frndint => exact numReg_nextSound h roundToInteger_keepsSound
  | fxtract => exact numReg_nextSound h extract_keepsSound
  | fabs | fchs => exact numReg_nextSound h changeSign_keepsSound
  | fscale => exact numReg_nextSound h scaleBy_keepsSound
  | fprem | fprem1 => exact numReg_nextSound h remainder_keepsSound
  | fcomM32 | fcomM64 => exact numLoad_nextSound h (compareReal_keepsSound keepsSound_id)
  | fcompM32 | fcompM64 => exact numLoad_nextSound h (compareReal_keepsSound keepsSound_pop)
  | ficomI16 | ficomI32 => exact numLoad_nextSound h (compareInt_keepsSound keepsSound_id)
  | ficompI16 | ficompI32 => exact numLoad_nextSound h (compareInt_keepsSound keepsSound_pop)
  | fcomSti | fucomSti => exact numReg_nextSound h (compareReg_keepsSound keepsSound_id)
  | fcompSti | fucompSti => exact numReg_nextSound h (compareReg_keepsSound keepsSound_pop)
  | fcompp | fucompp => exact numReg_nextSound h (compareReg_keepsSound keepsSound_pop2)
  | ftst => exact numReg_nextSound h (compareMem_keepsSound keepsSound_id)
  | fxam => exact numReg_nextSound h examine_keepsSound
  | fldM32 | fldM64 => exact numLoad_nextSound h fun _ => loadReal_keepsSound
  | fldM80 | fildI16 | fildI32 | fildI64 => exact numLoad_nextSound h fun _ => loadPlain_keepsSound
  | fbld => exact numLoad_nextSound h fun _ => loadBcd_keepsSound
  | fldSti => exact numReg_nextSound h loadSt_keepsSound
  | fldz | fld1 => exact numReg_nextSound h loadPlain_keepsSound
  | fldpi | fldl2t | fldl2e | fldlg2 | fldln2 => exact numReg_nextSound h loadConst_keepsSound
  | fstSti => exact numReg_nextSound h (storeSt_keepsSound keepsSound_id)
  | fstpSti => exact numReg_nextSound h (storeSt_keepsSound keepsSound_pop)
  | fxch => exact numReg_nextSound h exchange_keepsSound
  | fstM32 | fstM64 => exact numStore_nextSound h (storeReal_keepsSound keepsSound_id)
  | fstpM32 | fstpM64 => exact numStore_nextSound h (storeReal_keepsSound keepsSound_pop)
  | fstpM80 => exact numStore_nextSound h storeExt_keepsSound
  | fistI16 | fistI32 => exact numStore_nextSound h (storeInt_keepsSound keepsSound_id)
  | fistpI16 | fistpI32 | fistpI64 => exact numStore_nextSound h (storeInt_keepsSound keepsSound_pop)
  | fbstp => exact numStore_nextSound h storeBcd_keepsSound
  | fsin => exact numReg_nextSound h sine_keepsSound
  | fcos => exact numReg_nextSound h cosine_keepsSound
  | fsincos => exact numReg_nextSound h sineCosine_keepsSound
  | fptan => exact numReg_nextSound h tangent_keepsSound
  | fpatan => exact numReg_nextSound h arctangent_keepsSound
  | f2xm1 => exact numReg_nextSound h exponential_keepsSound
  | fyl2x => exact numReg_nextSound h logarithm_keepsSound
  | fyl2xp1 => exact numReg_nextSound h logarithmPlusOne_keepsSound
  | fninit => exact execFninit_nextSound h
  | fldcw => exact execFldcw_nextSound h
  | fnstcw => exact execFnstcw_nextSound h
  | fnstswM16 => exact execFnstswM16_nextSound h
  | fnstswAx => exact execFnstswAx_nextSound h
  | fnclex => exact execFnclex_nextSound h
  | fnstenv => exact execFnstenv_nextSound h
  | fldenv => exact execFldenv_nextSound h
  | fnsave => exact execFnsave_nextSound h
  | frstor => exact execFrstor_nextSound h
  | fincstp => exact execFincstp_nextSound h
  | fdecstp => exact execFdecstp_nextSound h
  | ffree => exact numReg_nextSound h fun _ hu => hu.freeReg
  | fnop | feni | fdisi | fsetpm => exact numReg_nextSound h keepsSound_id
  | wait => exact execWait_nextSound h
  | reservedD9Mem1 | reservedD9D1 | reservedD9D2 | reservedD9D4 | reservedD9D8 | reservedD9E2 | reservedD9E3
  | reservedD9E6 | reservedD9E7 | reservedD9EF | reservedDAC0 | reservedDAE0 | reservedDAE8 | reservedDAEA
  | reservedDAEC | reservedDAF0 | reservedDBMem1 | reservedDBMem4 | reservedDBMem6 | reservedDBC0 | reservedDBE5
  | reservedDBE6 | reservedDBE8 | reservedDBF0 | reservedDCD0 | reservedDDMem1 | reservedDDMem5 | reservedDDC8
  | reservedDDF0 | reservedDED0 | reservedDED8 | reservedDEDA | reservedDEDC | reservedDFMem1 | reservedDFC0
  | reservedDFE1 | reservedDFE2 | reservedDFE4 | reservedDFE8 | reservedDFF0 =>
    exact reservedEsc_nextSound h

/-! ## Every step -/

/-- An act of the environment leads from a sound state to sound states only. -/
theorem event_nextSound (e : Event) {s : State} (h : s.Sound) : NextSound (s.event e) := by
  unfold State.event
  cases e with
  | reset => exact nextSound_next h.resetEvent
  | resetInStore => exact nextSound_next h.resetInStore
  | setCr0 | cpu | setDenied | sti => exact nextSound_next h
  | sahf => exact nextSound_next h.sahf
  | iret =>
    dsimp only
    split
    next t ht => exact nextSound_next (h.returnFromTrap ht)
    · exact nextSound_refused _
  | cpuRead =>
    dsimp only
    split
    · exact nextSound_refused _
    · exact nextSound_next h
  | cpuWrite a bs =>
    dsimp only
    split
    · exact nextSound_refused _
    · exact nextSound_next (h.store (bytesFrom_below a bs.length))

/-- A step is an act of the environment or an executed instruction, and both lead to sound states only. -/
theorem step_nextSound {s : State} (h : s.Sound) : NextSound (step s) := by
  intro t ht
  rcases step_cases s with ⟨e, _, _, hstep⟩ | ⟨_, hstep⟩ <;> rw [hstep] at ht
  · exact event_nextSound e h.dropInput t ht
  · obtain ⟨i, _, _, _, hexec⟩ := runNext_next ht
    exact exec_nextSound i h.dropInput.unsettle t hexec

theorem unmaskedFlag_iff (cw : Word16) (w : StatusWord) :
    unmaskedFlag cw w = true ↔ ∃ x, w.flag x = true ∧ masked cw x = false := by
  constructor
  · simp only [unmaskedFlag, Bool.or_eq_true, Bool.and_eq_true, Bool.not_eq_true']
    rintro (((((h | h) | h) | h) | h) | h)
    exacts [⟨.ie, h⟩, ⟨.de, h⟩, ⟨.ze, h⟩, ⟨.oe, h⟩, ⟨.ue, h⟩, ⟨.pe, h⟩]
  · rintro ⟨x, hflag, hmask⟩
    cases x <;> simp_all [unmaskedFlag, StatusWord.flag]

/-- What a sound state shows outside: ERROR# active exactly when an unmasked flag is set, ES and B with it (R18). -/
theorem State.Sound.errorPin {s : State} (h : s.Sound) :
    (s.errorPin = true ↔ ∃ x, s.sw.flag x = true ∧ masked s.cw x = false)
      ∧ s.sw.es = s.errorPin ∧ s.sw.busy = s.errorPin := by
  obtain ⟨-, -, hes, hbusy⟩ := h
  refine ⟨?_, rfl, hbusy⟩
  rw [← unmaskedFlag_iff, ← hes]
  exact Iff.rfl

/-- Settles O6: the invariant is kept by every operation, so by every instruction and every act of the environment. -/
theorem everyStepKeepsSound : Obligations.EveryStepKeepsSound := by
  intro s t hs ht
  have hsound : t.Sound := step_nextSound hs t ht
  exact ⟨hsound, hsound.errorPin⟩

end Sys2Proof.Machine

/-! # FABS and FCHS (O42)

The tests before a numeric instruction without a memory operand and the state it leaves when it completes are said for
every such instruction; what FABS and FCHS do themselves is said of their common body `changeSign`. -/

namespace Sys2Proof.Machine

/-! ## The tests before an ESC instruction (R425, R430) -/

theorem escStart_notAvailable {k : Manner} {s : State} (h : s.cr0.em = true ∨ s.cr0.ts = true)
    (go : State → Result) : escStart k s go = .next (s.takeTrap .notAvailable) :=
  if_pos (by simpa using h)

theorem escStart_numericError {k : Manner} {s : State} (hem : s.cr0.em = false) (hts : s.cr0.ts = false)
    (het : s.cr0.et = true) (hwaits : k.waits = true) (hes : s.sw.es = true) (go : State → Result) :
    escStart k s go = .next (s.synced.takeTrap .numericError) := by
  simp [escStart, hem, hts, het, hwaits, hes]

section RegisterForm

variable {i : Instr} {s : State} {body : State → State}

theorem escGates_of_numReg (h : exec i s = numReg i s body) : escGates i s := by
  rw [escGates, h, numReg, escReg]
  exact ⟨fun h7 => escStart_notAvailable h7 _, fun hem hts het hes => escStart_numericError (k := .numeric) hem hts het rfl hes _⟩

theorem numReg_of_ready (h : s.Ready true) :
    numReg i s body = .next ((body (s.synced.recordReg i)).advance i) :=
  escReg_of_ready (k := .numeric) i h _

end RegisterForm

/-! ## Completion (R36, R40, R41) -/

/-- The body of a numeric instruction leaves these alone: the processor, the instruction pointer, the control word, and
the FIP and FOP that the prelude has recorded. -/
def State.KeepsControl (s t : State) : Prop :=
  s.KeepsCpu t ∧ t.eip = s.eip ∧ t.cw = s.cw ∧ t.fip = s.fip ∧ t.fop = s.fop

section Control

variable (s : State)

theorem keepsControl_refl : s.KeepsControl s :=
  ⟨⟨rfl, rfl, rfl, rfl, rfl, rfl, rfl, rfl, rfl, rfl, rfl⟩, rfl, rfl, rfl, rfl⟩

theorem keepsControl_stackFault (o : Bool) : s.KeepsControl (s.stackFault o) := keepsControl_refl s
theorem keepsControl_putReg (k : Fin 8) (v : Ext) : s.KeepsControl (s.putReg k v) := keepsControl_refl s

end Control

/-- A register form whose body leaves control alone completes as a numeric instruction does. -/
theorem completedNumeric_advance {i : Instr} {s u : State} (hu : (s.synced.recordReg i).KeepsControl u)
    (hmem : s.access i = none) : s.CompletedNumeric (u.advance i) i := by
  obtain ⟨hcpu, heip, hcw, hfip, hfop⟩ := hu
  have hcode : u.code32 = s.code32 := by
    obtain ⟨-, hseg, hmode, -⟩ := hcpu
    rw [State.code32, State.code32, hseg, hmode]
    rfl
  have hadv : s.Advanced (u.advance i) i := by
    have h := advance_advanced u i
    rw [State.Advanced, heip, hcode] at h
    exact h
  exact ⟨⟨hcpu, hadv⟩, hcw, hfip, hfop, fun a ha => by rw [hmem] at ha; cases ha⟩

/-! ## Tags without a pop (R13, R30) -/

theorem putReg_popped (s : State) (k : Fin 8) (v : Ext) : s.Popped (s.putReg k v) (some k) 0 := by
  refine ⟨(add_zero _).symm, fun j => ?_⟩
  simp [eq_comm]

theorem popped_of_empty {s t : State} (htop : t.sw.top = s.sw.top) (hempty : t.empty = s.empty) :
    s.Popped t none 0 := by
  refine ⟨htop.trans (add_zero _).symm, fun j => ?_⟩
  simp [State.isEmpty, hempty]

/-! ## A stack fault whose masked response is one register (R410) -/

/-- Masked, the register is written and made nonempty; unmasked, nothing is written. -/
theorem faultThen_putSt_spec (s : State) (overflow : Bool) (d : Fin 8) (v : Ext) :
    let t := s.faultThen overflow fun u => u.putSt d v
    s.StackFaulted t overflow ∧ s.KeepsMemory t [] ∧ s.KeepsControl t
      ∧ (masked s.cw .ie = true →
          t.reg (s.phys d) = v ∧ s.KeepsRegs t [s.phys d] ∧ s.Popped t (some (s.phys d)) 0)
      ∧ (masked s.cw .ie = false → s.KeepsRegs t [] ∧ s.Popped t none 0) := by
  intro t
  have hfault : s.StackFaulted (s.stackFault overflow) overflow := stackFault_spec s overflow
  have hcontrol : s.KeepsControl (s.stackFault overflow) := keepsControl_stackFault s overflow
  rcases faultThen_cases s overflow fun u => u.putSt d v with ⟨hmask, ht⟩ | ⟨hmask, ht⟩
  · have ht : t = (s.stackFault overflow).putReg (s.phys d) v := ht
    rw [ht]
    refine ⟨hfault, fun _ _ => rfl, hcontrol, fun _ => ⟨?_, ?_, ?_⟩, fun hm => by simp [hmask] at hm⟩
    · rw [reg_putReg, if_pos rfl]
    · exact putReg_keepsRegs (s.stackFault overflow) _ _
    · exact putReg_popped (s.stackFault overflow) _ _
  · have ht : t = s.stackFault overflow := ht
    rw [ht]
    exact ⟨hfault, fun _ _ => rfl, hcontrol, fun hm => by simp [hmask] at hm,
      fun _ => ⟨fun _ _ => rfl, popped_of_empty rfl rfl⟩⟩

/-! ## The body of FABS and FCHS (R251, R252) -/

section ChangeSign

variable (f : Bool → Bool) {s : State}

theorem changeSign_of_nonempty (h : s.stEmpty 0 = false) :
    changeSign f s =
      s.drawC320ClearC1.putReg (s.phys 0) { s.st 0 with sign := f (s.st 0).sign } :=
  if_neg (Bool.eq_false_iff.mp h)

theorem changeSign_of_empty (h : s.stEmpty 0 = true) :
    changeSign f s = s.drawC320ClearC1.faultThen false fun u => u.putSt 0 indefinite :=
  if_pos h

theorem changeSign_nonempty_spec (h : s.stEmpty 0 = false) :
    let t := changeSign f s
    t.reg (s.phys 0) = { s.st 0 with sign := f (s.st 0).sign } ∧ t.sw.c1 = false ∧ s.Raised t []
      ∧ s.KeepsRegs t [s.phys 0] ∧ s.Popped t (some (s.phys 0)) 0 ∧ s.KeepsMemory t [] ∧ s.KeepsControl t := by
  intro t
  have ht : t = _ := changeSign_of_nonempty f h
  rw [ht]
  refine ⟨?_, rfl, ?_, ?_, ?_, ?_, ?_⟩
  · rw [reg_putReg, if_pos rfl]
  · exact raised_nil s
  · exact putReg_keepsRegs s.drawC320ClearC1 _ _
  · exact putReg_popped s.drawC320ClearC1 _ _
  · exact fun _ _ => rfl
  · exact keepsControl_putReg s.drawC320ClearC1 _ _

/-- With ST empty they are a stack underflow (R251, R252, R410). -/
theorem changeSign_empty_spec (h : s.stEmpty 0 = true) :
    let t := changeSign f s
    s.StackFaulted t false ∧ s.KeepsMemory t [] ∧ s.KeepsControl t
      ∧ (masked s.cw .ie = true →
          t.reg (s.phys 0) = indefinite ∧ s.KeepsRegs t [s.phys 0] ∧ s.Popped t (some (s.phys 0)) 0)
      ∧ (masked s.cw .ie = false → s.KeepsRegs t [] ∧ s.Popped t none 0) := by
  intro t
  have ht : t = _ := changeSign_of_empty f h
  rw [ht]
  exact faultThen_putSt_spec s.drawC320ClearC1 false 0 indefinite

end ChangeSign

/-! ## The instructions -/

/-- FABS and FCHS are one instruction but for what becomes of the sign. -/
theorem exec_signInstruction {q : List Prefix} {s : State} {i : Instr} {sign : Bool}
    (h : (i = .fabs q ∧ sign = false) ∨ (i = .fchs q ∧ sign = !(s.st 0).sign)) :
    ∃ f : Bool → Bool, exec i s = numReg i s (changeSign f) ∧ sign = f (s.st 0).sign ∧ s.access i = none := by
  rcases h with ⟨rfl, rfl⟩ | ⟨rfl, rfl⟩
  · exact ⟨fun _ => false, rfl, rfl, rfl⟩
  · exact ⟨not, rfl, rfl, rfl⟩

/-- Settles O42: FABS and FCHS run `changeSign` on the state that the prelude hands over, which has the numeric
registers and the status word of the state before. -/
theorem signInstructionsChangeTheSignBit : Obligations.SignInstructionsChangeTheSignBit := by
  intro q s i sign hi
  obtain ⟨f, hexec, rfl, hmem⟩ := exec_signInstruction hi
  have hnext (hr : s.Ready true) : exec i s = .next ((changeSign f (s.synced.recordReg i)).advance i) :=
    hexec.trans (numReg_of_ready hr)
  refine ⟨by decide, by decide, escGates_of_numReg hexec, fun hr hst => ?_, fun hr hst => ?_⟩
  · obtain ⟨hreg, hc1, hraised, hregs, hpopped, hmemory, hcontrol⟩ :=
      changeSign_nonempty_spec f (s := s.synced.recordReg i) hst
    exact ⟨_, hnext hr, hreg, hc1, hraised, hregs, hpopped, hmemory, completedNumeric_advance hcontrol hmem⟩
  · obtain ⟨hfault, hmemory, hcontrol, hmasked, hunmasked⟩ :=
      changeSign_empty_spec f (s := s.synced.recordReg i) hst
    exact ⟨_, hnext hr, hfault, hmemory, completedNumeric_advance hcontrol hmem, hmasked, hunmasked⟩

end Sys2Proof.Machine

/-! # FNINIT (O52) and FINCSTP, FDECSTP (O59)

FNINIT goes through the prelude of the no-wait instructions and completes with the initial state.  FINCSTP and FDECSTP
are one instruction but for how far TOP moves. -/

namespace Sys2Proof.Machine

/-! ## The initial state (R44, R330) -/

/-- Each empty register has the tag 11B, whatever its contents are (R29). -/
theorem tagWord_of_all_empty {s : State} (h : ∀ k, s.isEmpty k = true) : s.tagWord = 0xFFFF := by
  have htag : ∀ k, s.tag k = 3 := fun k => if_pos (h k)
  simp only [State.tagWord, htag]
  decide

theorem isEmpty_initNpx (s : State) (k : Fin 8) : s.initNpx.isEmpty k = true := by
  simp [State.isEmpty]

theorem initNpx_spec (s : State) :
    s.initNpx.cw = 0x037F ∧ s.initNpx.sw.toBits = 0 ∧ s.initNpx.tagWord = 0xFFFF ∧ s.initNpx.errorPin = false
      ∧ s.initNpx.regs = s.regs ∧ s.KeepsPointers s.initNpx ∧ s.initNpx.mem = s.mem := by
  refine ⟨rfl, ?_, tagWord_of_all_empty (isEmpty_initNpx s), ?_, rfl, ⟨rfl, rfl, rfl⟩, rfl⟩
  · rw [State.initNpx_sw]
    decide
  · rw [State.errorPin, State.initNpx_sw]
    decide

/-! ## FNINIT (R330) -/

section Fninit

variable {q : List Prefix} {s : State}

theorem exec_fninit_notAvailable (h : s.cr0.em = true ∨ s.cr0.ts = true) :
    exec (.fninit q) s = .next (s.takeTrap .notAvailable) :=
  escStart_notAvailable (k := .noWait) h _

/-- FNINIT does not test ERROR#, and ends the unreliable state after interrupt 9 (R431). -/
theorem exec_fninit_of_ready (h : s.Ready false) :
    exec (.fninit q) s = .next (State.advance { s.initNpx with overrun := false } (.fninit q)) :=
  escReg_of_ready (k := .noWait) (.fninit q) h fun u =>
    .next (State.advance { u.initNpx with overrun := false } (.fninit q))

end Fninit

/-- Settles O52: once past the tests, FNINIT completes in the initial state of `initNpx_spec`; that interrupt 9 is
forgotten and the instruction pointer advanced shows in no other part of it. -/
theorem fninitSetsTheInitialState : Obligations.FninitSetsTheInitialState := by
  intro q s
  refine ⟨by decide, exec_fninit_notAvailable, fun hr => ?_⟩
  obtain ⟨hcw, hsw, htags, herror, hregs, hpointers, hmem⟩ := initNpx_spec s
  have hadvanced := advance_advanced { s.initNpx with overrun := false } (.fninit q)
  exact ⟨_, exec_fninit_of_ready hr, hcw, hsw, htags, herror, hregs, hpointers, hmem, rfl, rfl, rfl, rfl, hadvanced⟩

/-! ## FINCSTP and FDECSTP (R346, R347) -/

/-- What FINCSTP and FDECSTP have in common: TOP moves to the register that is ST(d) before, and the condition code is
that of an instruction that never rounds. -/
def State.rotateStack (d : Fin 8) (s : State) : State := s.drawC320ClearC1.setTop (s.phys d)

theorem exec_fincstp (q : List Prefix) (s : State) :
    exec (.fincstp q) s = numReg (.fincstp q) s (State.rotateStack 1) := rfl

/-- Down by one is up by seven, modulo 8. -/
theorem exec_fdecstp (q : List Prefix) (s : State) :
    exec (.fdecstp q) s = numReg (.fdecstp q) s (State.rotateStack 7) := by
  have hbody : State.rotateStack 7 = fun u => u.drawC320ClearC1.setTop (u.sw.top - 1) :=
    funext fun u => congrArg u.drawC320ClearC1.setTop (phys_seven u)
  rw [hbody]
  rfl

theorem exec_stackPointerInstruction {q : List Prefix} {s : State} {i : Instr} {n : Nat}
    (h : (i = .fincstp q ∧ n = 1) ∨ (i = .fdecstp q ∧ n = 7)) :
    ∃ d : Fin 8, exec i s = numReg i s (State.rotateStack d) ∧ n = d.val ∧ s.access i = none := by
  rcases h with ⟨rfl, rfl⟩ | ⟨rfl, rfl⟩
  · exact ⟨1, exec_fincstp q s, rfl, rfl⟩
  · exact ⟨7, exec_fdecstp q s, rfl, rfl⟩

/-- No tag is looked at, so this holds whether registers are empty or not. -/
theorem rotateStack_spec (d : Fin 8) (s : State) :
    let t := s.rotateStack d
    t.sw.top.val = (s.sw.top.val + d.val) % 8 ∧ t.sw.c1 = false ∧ t.regs = s.regs ∧ t.empty = s.empty
      ∧ s.Raised t [] ∧ t.mem = s.mem ∧ s.KeepsControl t :=
  ⟨Fin.val_add s.sw.top d, rfl, rfl, rfl, raised_nil s, rfl, keepsControl_refl s⟩

/-- Settles O59: FINCSTP and FDECSTP run `rotateStack` on the state that the prelude hands over, which has the numeric
registers, the tags and the status word of the state before. -/
theorem stackPointerInstructionsMoveTop : Obligations.StackPointerInstructionsMoveTop := by
  intro q s i n hi
  obtain ⟨d, hexec, rfl, hmem⟩ := exec_stackPointerInstruction hi
  refine ⟨by decide, by decide, escGates_of_numReg hexec, fun hr => ?_⟩
  obtain ⟨htop, hc1, hregs, hempty, hraised, hmemory, hcontrol⟩ := rotateStack_spec d (s.synced.recordReg i)
  exact ⟨_, hexec.trans (numReg_of_ready hr), htop, hc1, hregs, hempty, hraised, hmemory,
    completedNumeric_advance hcontrol hmem⟩

end Sys2Proof.Machine

/-! # The encoding (O1, O2, O3)

Each table of the encoding is inverted by its own lemma, in the order in which the decoder reads: prefixes, numbers of
several bytes, displacements, the SIB byte, memory operands, the opcode map.  "Encode then decode" and "decode then
encode" are proved side by side at every level. -/

namespace Sys2Proof

/-! ## The opcode map (R98 to R104, R110) -/

/-- The two directions of the opcode map agree on every row. -/
theorem ofForm_form (i : Instr) : Instr.ofForm i.prefixes i.form = i := by
  cases i with
  | reservedD9D2 p x => exact Laws.encodingRow.reservedD9D2 p x
  | reservedD9D4 p x => exact Laws.encodingRow.reservedD9D4 p x
  | reservedD9D8 p x => exact Laws.encodingRow.reservedD9D8 p x
  | reservedDAC0 p x => exact Laws.encodingRow.reservedDAC0 p x
  | reservedDAE0 p x => exact Laws.encodingRow.reservedDAE0 p x
  | reservedDAEA p x => exact Laws.encodingRow.reservedDAEA p x
  | reservedDAEC p x => exact Laws.encodingRow.reservedDAEC p x
  | reservedDAF0 p x => exact Laws.encodingRow.reservedDAF0 p x
  | reservedDBC0 p x => exact Laws.encodingRow.reservedDBC0 p x
  | reservedDBE6 p x => exact Laws.encodingRow.reservedDBE6 p x
  | reservedDBE8 p x => exact Laws.encodingRow.reservedDBE8 p x
  | reservedDBF0 p x => exact Laws.encodingRow.reservedDBF0 p x
  | reservedDCD0 p x => exact Laws.encodingRow.reservedDCD0 p x
  | reservedDDF0 p x => exact Laws.encodingRow.reservedDDF0 p x
  | reservedDEDA p x => exact Laws.encodingRow.reservedDEDA p x
  | reservedDEDC p x => exact Laws.encodingRow.reservedDEDC p x
  | reservedDFC0 p x => exact Laws.encodingRow.reservedDFC0 p x
  | reservedDFE2 p x => exact Laws.encodingRow.reservedDFE2 p x
  | reservedDFE4 p x => exact Laws.encodingRow.reservedDFE4 p x
  | reservedDFF0 p x => exact Laws.encodingRow.reservedDFF0 p x
  | _ => rfl

theorem ofMem_spec (p : List Prefix) (op r : Fin 8) (m : MemOp) :
    (Instr.ofMem p op r m).form = .mem op r m ∧ (Instr.ofMem p op r m).prefixes = p := by
  fin_cases op <;> fin_cases r <;> exact ⟨rfl, rfl⟩

theorem ofReg_spec (p : List Prefix) (op r i : Fin 8) :
    (Instr.ofReg p op r i).form = .reg op r i ∧ (Instr.ofReg p op r i).prefixes = p := by
  fin_cases op <;> fin_cases r <;> fin_cases i <;> exact ⟨rfl, rfl⟩


/-! ## Prefixes (R91, R106 step 1) -/

theorem ofCode_code (p : Prefix) : Prefix.ofCode p.code = some p := by
  cases p with
  | seg s => cases s <;> rfl
  | opSize => rfl
  | addrSize => rfl

theorem code_of_ofCode {b : Byte} {p : Prefix} (h : Prefix.ofCode b = some p) : b = p.code := by
  revert p
  revert b
  decide +kernel

/-- The opcode bytes, and so the first byte after the prefixes, are none of the prefixes. -/
theorem ofCode_escByte (op : Fin 8) : Prefix.ofCode (escByte op) = none := by
  revert op; decide

theorem splitPrefixes_of_none {b : Byte} (h : Prefix.ofCode b = none) (bs : List Byte) :
    splitPrefixes (b :: bs) = ([], b :: bs) := by
  rw [splitPrefixes, h]

theorem splitPrefixes_map_code (ps : List Prefix) {bs : List Byte} (h : splitPrefixes bs = ([], bs)) :
    splitPrefixes (ps.map Prefix.code ++ bs) = (ps, bs) := by
  induction ps with
  | nil => exact h
  | cons p ps ih => simp [splitPrefixes, ofCode_code, ih]

theorem splitPrefixes_inverse (bs : List Byte) :
    bs = (splitPrefixes bs).1.map Prefix.code ++ (splitPrefixes bs).2 := by
  induction bs with
  | nil => rfl
  | cons b bs ih =>
    unfold splitPrefixes
    cases h : Prefix.ofCode b with
    | none => rfl
    | some p =>
      rw [code_of_ofCode h]
      exact congrArg (p.code :: ·) ih

/-! ## Numbers of several bytes (R50) -/

theorem leBytes_length (n v : Nat) : (leBytes n v).length = n := by
  induction n generalizing v with
  | zero => rfl
  | succ n ih => exact congrArg (· + 1) (ih _)

theorem takeLe_leBytes (n v : Nat) (rest : List Byte) (h : v < 256 ^ n) :
    takeLe n (leBytes n v ++ rest) = some (v, rest) := by
  induction n generalizing v with
  | zero => simp [takeLe, leBytes]; omega
  | succ n ih =>
    have hq : v / 256 < 256 ^ n := Nat.div_lt_of_lt_mul (by rwa [pow_succ'] at h)
    simp only [leBytes, List.cons_append, takeLe, ih _ hq, BitVec.toNat_ofNat]
    congr 2
    omega

theorem takeLe_eq_some {n v : Nat} {bs rest : List Byte} (h : takeLe n bs = some (v, rest)) :
    bs = leBytes n v ++ rest ∧ v < 256 ^ n := by
  induction n generalizing bs v with
  | zero =>
    simp only [takeLe, Option.some.injEq, Prod.mk.injEq] at h
    obtain ⟨rfl, rfl⟩ := h
    exact ⟨rfl, by decide⟩
  | succ n ih =>
    match bs with
    | [] => simp [takeLe] at h
    | b :: bs =>
      simp only [takeLe] at h
      cases hw : takeLe n bs with
      | none => rw [hw] at h; cases h
      | some wr =>
        obtain ⟨w, r⟩ := wr
        rw [hw] at h
        simp only [Option.some.injEq, Prod.mk.injEq] at h
        obtain ⟨rfl, rfl⟩ := h
        obtain ⟨rfl, hlt⟩ := ih hw
        have hb := b.isLt
        refine ⟨?_, by rw [pow_succ']; omega⟩
        have hlow : BitVec.ofNat 8 (b.toNat + 256 * w) = b := BitVec.eq_of_toNat_eq (by simp; omega)
        have hhigh : (b.toNat + 256 * w) / 256 = w := by omega
        rw [leBytes, hlow, hhigh, List.cons_append]

/-- A displacement or address of `8 n` bits, read back. -/
theorem takeLe_toNat {n : Nat} (d : BitVec (8 * n)) (rest : List Byte) :
    takeLe n (leBytes n d.toNat ++ rest) = some (d.toNat, rest) :=
  takeLe_leBytes n _ rest (by have h := d.isLt; rwa [pow_mul] at h)

/-! ## The bytes of the address form (R90, R93) -/

/-- The second opcode byte gives back its three fields. -/
theorem modRm_fields {mod rm : Nat} (r : Fin 8) (hmod : mod < 4) (hrm : rm < 8) :
    (modRm mod r rm).toNat / 64 = mod ∧ fin8 ((modRm mod r rm).toNat / 8) = r
      ∧ (fin8 (modRm mod r rm).toNat).val = rm := by
  have hr := r.isLt
  have h : (modRm mod r rm).toNat = mod * 64 + r.val * 8 + rm := by
    simp only [modRm, BitVec.toNat_ofNat]
    omega
  rw [h]
  refine ⟨by omega, Fin.ext ?_, ?_⟩ <;> simp only [fin8] <;> omega

theorem modRm_of_fields (b : Byte) : modRm (b.toNat / 64) (fin8 (b.toNat / 8)) (fin8 b.toNat).val = b := by
  have hb := b.isLt
  apply BitVec.eq_of_toNat_eq
  simp only [modRm, fin8, BitVec.toNat_ofNat]
  omega

theorem escByte_fields (op : Fin 8) :
    escByte op ≠ 0x9B ∧ (escByte op).toNat / 8 = 27 ∧ fin8 (escByte op).toNat = op := by
  revert op; decide

theorem escByte_of_fields {b : Byte} (h : b.toNat / 8 = 27) : escByte (fin8 b.toNat) = b := by
  have hb := b.isLt
  apply BitVec.eq_of_toNat_eq
  simp only [escByte, fin8, BitVec.toNat_ofNat]
  omega

theorem gregOfNum_num (g : GReg) (h : g.num < 8 := by cases g <;> decide) : GReg.ofNum ⟨g.num, h⟩ = g := by
  cases g <;> rfl

theorem num_gregOfNum (k : Fin 8) : (GReg.ofNum k).num = k.val := by fin_cases k <;> rfl

theorem num_base16OfNum (k : Fin 8) : (Base16.ofNum k).num = k.val := by fin_cases k <;> rfl

end Sys2Proof

namespace Sys2Proof

/-! ## Displacements (R93, R94, R97) -/

theorem disp_mod_lt {w : Nat} (d : Disp w) : d.mod < 3 := by cases d <;> simp [Disp.mod]

theorem decodeDisp_bytes {n : Nat} (d : Disp (8 * n)) (rest : List Byte) :
    decodeDisp (8 * n) d.mod (d.bytes ++ rest) = .ok (d, rest) := by
  cases d with
  | none => rfl
  | d8 d => simp [decodeDisp, Disp.mod, Disp.bytes, takeLe]
  | full d =>
    have hw : 8 * n / 8 = n := by omega
    simp only [decodeDisp, Disp.mod, Disp.bytes, hw, takeLe_toNat, BitVec.ofNat_toNat, BitVec.setWidth_eq]

theorem decodeDisp_eq_ok {n mod : Nat} {bs rest : List Byte} {d : Disp (8 * n)} (hmod : mod < 3)
    (h : decodeDisp (8 * n) mod bs = .ok (d, rest)) : bs = d.bytes ++ rest ∧ d.mod = mod := by
  have hw : 8 * n / 8 = n := by omega
  match mod, hmod with
  | 0, _ =>
    cases h
    exact ⟨rfl, rfl⟩
  | 1, _ =>
    simp only [decodeDisp] at h
    split at h
    next v r hv =>
      cases h
      obtain ⟨rfl, -⟩ := takeLe_eq_some hv
      exact ⟨by simp [Disp.bytes, leBytes], rfl⟩
    next => cases h
  | 2, _ =>
    simp only [decodeDisp, hw] at h
    split at h
    next v r hv =>
      cases h
      obtain ⟨rfl, hlt⟩ := takeLe_eq_some hv
      have hv : (BitVec.ofNat (8 * n) v).toNat = v := by
        rw [BitVec.toNat_ofNat, pow_mul]
        exact Nat.mod_eq_of_lt hlt
      exact ⟨by rw [Disp.bytes, hw, hv], rfl⟩
    next => cases h

/-! ## The SIB byte (R93) -/

/-- The index field of a SIB byte. -/
def indexField : Option GReg → Nat
  | none => 4
  | some g => g.num

theorem sibByte_fields {base : Nat} (sc : Fin 4) {ix : Option GReg} (hix : indexWf ix = true) (hbase : base < 8) :
    let b := sibByte sc ix base
    fin4 (b.toNat / 64) = sc ∧ (fin8 b.toNat).val = base
      ∧ (if fin8 (b.toNat / 8) = 4 then none else some (GReg.ofNum (fin8 (b.toNat / 8)))) = ix := by
  have hsc := sc.isLt
  have hf : indexField ix < 8 := by
    cases ix with
    | none => decide
    | some g => cases g <;> decide
  have hb : (sibByte sc ix base).toNat = sc.val * 64 + indexField ix * 8 + base := by
    have : sibByte sc ix base = BitVec.ofNat 8 (sc.val * 64 + indexField ix * 8 + base) := by cases ix <;> rfl
    rw [this, BitVec.toNat_ofNat]
    omega
  have hidx : fin8 ((sibByte sc ix base).toNat / 8) = ⟨indexField ix, hf⟩ := by
    rw [hb]
    exact Fin.ext (by simp only [fin8]; omega)
  refine ⟨?_, ?_, ?_⟩
  · rw [hb]
    exact Fin.ext (by simp only [fin4]; omega)
  · rw [hb]
    simp only [fin8]
    omega
  · rw [hidx]
    cases ix with
    | none => rfl
    | some g => cases g <;> first | rfl | cases hix

theorem sibByte_of_fields (b : Byte) :
    sibByte (fin4 (b.toNat / 64)) (if fin8 (b.toNat / 8) = 4 then none else some (GReg.ofNum (fin8 (b.toNat / 8))))
      (fin8 b.toNat).val = b
      ∧ indexWf (if fin8 (b.toNat / 8) = 4 then none else some (GReg.ofNum (fin8 (b.toNat / 8)))) = true := by
  revert b
  decide +kernel

/-! ## Memory operands (R93, R94) -/

theorem base16_ofNum_num (b : Base16) (h : b.num < 8) : Base16.ofNum ⟨b.num, h⟩ = b := by cases b <;> rfl

theorem gregNum_lt (g : GReg) : g.num < 8 := by cases g <;> decide

/-- EBP as a base is never taken for the form without a base (R93). -/
theorem not_noBase_of_baseWf {b : GReg} {d : Disp 32} (h : baseWf b d = true) (hb : b.num < 8) :
    ¬(d.mod = 0 ∧ (⟨b.num, hb⟩ : Fin 8) = 5) := by
  cases b <;> cases d <;> simp [Disp.mod, GReg.num, baseWf] at h ⊢

/-- The fields of an encoded address form, as the decoder reads them: MOD is not 11B, the opcode field is `r`, and MOD
and R/M with the bytes that follow give back the operand. -/
def DecodesTo (as32 : Bool) (r : Fin 8) (m : MemOp) (bs rest : List Byte) : Prop :=
  ∃ b2 tail, bs = b2 :: tail ∧ b2.toNat / 64 < 3 ∧ fin8 (b2.toNat / 8) = r
    ∧ (if as32 then decodeMem32 (b2.toNat / 64) (fin8 b2.toNat) tail
        else decodeMem16 (b2.toNat / 64) (fin8 b2.toNat) tail) = .ok (m, rest)

/-- To decode an encoded operand it is enough to decode with the fields it was encoded with. -/
theorem decodesTo_modRm {as32 : Bool} {r : Fin 8} {m : MemOp} {mod rm : Nat} {tail rest : List Byte} (hmod : mod < 3)
    (hrm : rm < 8)
    (h : (if as32 then decodeMem32 mod ⟨rm, hrm⟩ tail else decodeMem16 mod ⟨rm, hrm⟩ tail) = .ok (m, rest)) :
    DecodesTo as32 r m (modRm mod r rm :: tail) rest := by
  obtain ⟨h1, h2, h3⟩ := modRm_fields r (show mod < 4 by omega) hrm
  have h3 : fin8 (modRm mod r rm).toNat = ⟨rm, hrm⟩ := Fin.ext h3
  exact ⟨_, _, rfl, by omega, h2, by rw [h1, h3]; exact h⟩

/-- The encoder's address form of every operand that has one is read back (R93, R94). -/
theorem decodesTo_bytes {as32 : Bool} (r : Fin 8) {m : MemOp} (h : m.wf as32 = true) (rest : List Byte) :
    DecodesTo as32 r m (m.bytes r ++ rest) rest := by
  match m, h with
  | .a16 (.direct d), h =>
    obtain rfl : as32 = false := by simpa [MemOp.wf, EA16.wf] using h
    exact decodesTo_modRm (by decide) (by decide) (by simp [decodeMem16, takeLe_toNat (n := 2) d])
  | .a16 (.based b d), h =>
    obtain ⟨rfl, hwf⟩ : as32 = false ∧ EA16.wf (.based b d) = true := by simpa [MemOp.wf] using h
    have hb : b.num < 8 := by cases b <;> decide
    have hdirect : ¬(d.mod = 0 ∧ (⟨b.num, hb⟩ : Fin 8) = 6) := by
      cases b <;> cases d <;> simp [Disp.mod, Base16.num, EA16.wf] at hwf ⊢
    have hd : decodeDisp 16 d.mod (d.bytes ++ rest) = .ok (d, rest) := decodeDisp_bytes (n := 2) d rest
    refine decodesTo_modRm (tail := d.bytes ++ rest) (disp_mod_lt d) hb ?_
    simp only [Bool.false_eq_true, if_false, decodeMem16, if_neg hdirect, hd, base16_ofNum_num]
  | .a32 (.direct d), h =>
    obtain rfl : as32 = true := by simpa [MemOp.wf, EA32.wf] using h
    exact decodesTo_modRm (by decide) (by decide) (by simp [decodeMem32, takeLe_toNat (n := 4) d])
  | .a32 (.reg b d), h =>
    obtain ⟨rfl, hesp, hebp⟩ : as32 = true ∧ b ≠ .esp ∧ baseWf b d = true := by
      simpa [MemOp.wf, EA32.wf] using h
    have hb : b.num < 8 := gregNum_lt b
    have hsib : (⟨b.num, hb⟩ : Fin 8) ≠ 4 := by cases b <;> simp [GReg.num] at hesp ⊢
    have hd : decodeDisp 32 d.mod (d.bytes ++ rest) = .ok (d, rest) := decodeDisp_bytes (n := 4) d rest
    refine decodesTo_modRm (tail := d.bytes ++ rest) (disp_mod_lt d) hb ?_
    simp only [if_true, decodeMem32, if_neg hsib, if_neg (not_noBase_of_baseWf hebp hb), hd, gregOfNum_num]
  | .a32 (.sib sc ix b d), h =>
    obtain ⟨rfl, hix, hebp⟩ : as32 = true ∧ indexWf ix = true ∧ baseWf b d = true := by
      simpa [MemOp.wf, EA32.wf] using h
    have hb : b.num < 8 := gregNum_lt b
    obtain ⟨hsc, hbase, hidx⟩ := sibByte_fields sc hix hb
    have hbase : fin8 (sibByte sc ix b.num).toNat = ⟨b.num, hb⟩ := Fin.ext hbase
    have hd : decodeDisp 32 d.mod (d.bytes ++ rest) = .ok (d, rest) := decodeDisp_bytes (n := 4) d rest
    refine decodesTo_modRm (rm := 4) (tail := sibByte sc ix b.num :: (d.bytes ++ rest)) (disp_mod_lt d) (by decide) ?_
    simp only [if_true, decodeMem32, Fin.reduceFinMk, decodeSib, hsc, hbase, hidx,
      if_neg (not_noBase_of_baseWf hebp hb), hd, gregOfNum_num]
  | .a32 (.sibNoBase sc ix d), h =>
    obtain ⟨rfl, hix⟩ : as32 = true ∧ indexWf ix = true := by simpa [MemOp.wf, EA32.wf] using h
    obtain ⟨hsc, hbase, hidx⟩ := sibByte_fields (base := 5) sc hix (by decide)
    have hbase : fin8 (sibByte sc ix 5).toNat = 5 := Fin.ext hbase
    have hd := takeLe_toNat (n := 4) d rest
    refine decodesTo_modRm (rm := 4) (tail := sibByte sc ix 5 :: (leBytes 4 d.toNat ++ rest)) (by decide) (by decide) ?_
    simp only [if_true, decodeMem32, Fin.reduceFinMk, decodeSib, hsc, hbase, hidx, true_and, hd, BitVec.ofNat_toNat,
      BitVec.setWidth_eq]

end Sys2Proof

namespace Sys2Proof

/-! ## Memory operands, from the bytes -/

theorem ea16_wf_based {b : Base16} {d : Disp 16} (h : ¬(d.mod = 0 ∧ b.num = 6)) : EA16.wf (.based b d) = true := by
  cases b <;> cases d <;> simp [Disp.mod, Base16.num, EA16.wf] at h ⊢

theorem baseWf_of_not {b : GReg} {d : Disp 32} (h : ¬(d.mod = 0 ∧ b.num = 5)) : baseWf b d = true := by
  cases b <;> cases d <;> simp [Disp.mod, GReg.num, baseWf] at h ⊢

theorem bv32_toNat {v : Nat} (h : v < 256 ^ 4) : (BitVec.ofNat 32 v).toNat = v :=
  Nat.mod_eq_of_lt (by simpa using h)

theorem decodeMem16_eq_ok {mod : Nat} {rm : Fin 8} {bs rest : List Byte} {m : MemOp} (hmod : mod < 3)
    (h : decodeMem16 mod rm bs = .ok (m, rest)) (r : Fin 8) :
    modRm mod r rm.val :: bs = m.bytes r ++ rest ∧ m.wf false = true := by
  unfold decodeMem16 at h
  split at h
  next hdirect =>
    obtain ⟨rfl, rfl⟩ := hdirect
    split at h
    next v w hv =>
      cases h
      obtain ⟨rfl, hlt⟩ := takeLe_eq_some hv
      have hv : (BitVec.ofNat 16 v).toNat = v := Nat.mod_eq_of_lt (by simpa using hlt)
      exact ⟨by simp [MemOp.bytes, hv], rfl⟩
    next => cases h
  next hbased =>
    split at h
    next d w hd =>
      cases h
      obtain ⟨rfl, rfl⟩ := decodeDisp_eq_ok (n := 2) hmod hd
      refine ⟨by simp [MemOp.bytes, num_base16OfNum], ea16_wf_based fun h => hbased ⟨h.1, Fin.ext ?_⟩⟩
      rw [← num_base16OfNum, h.2]
      rfl
    next => cases h

theorem decodeSib_eq_ok {mod : Nat} {bs rest : List Byte} {m : MemOp} (hmod : mod < 3)
    (h : decodeSib mod bs = .ok (m, rest)) (r : Fin 8) :
    modRm mod r 4 :: bs = m.bytes r ++ rest ∧ m.wf true = true := by
  match bs with
  | [] => cases h
  | b :: bs =>
    obtain ⟨hbyte, hix⟩ := sibByte_of_fields b
    simp only [decodeSib] at h
    split at h
    next hnobase =>
      obtain ⟨rfl, hbase⟩ := hnobase
      rw [hbase] at hbyte
      split at h
      next v w hv =>
        cases h
        obtain ⟨rfl, hlt⟩ := takeLe_eq_some hv
        exact ⟨by simpa [MemOp.bytes, bv32_toNat hlt] using hbyte.symm, hix⟩
      next => cases h
    next hbased =>
      split at h
      next d w hd =>
        cases h
        obtain ⟨rfl, rfl⟩ := decodeDisp_eq_ok (n := 4) hmod hd
        have hwf : baseWf (GReg.ofNum (fin8 b.toNat)) d = true := by
          refine baseWf_of_not fun h => hbased ⟨h.1, Fin.ext ?_⟩
          rw [← num_gregOfNum, h.2]
          rfl
        refine ⟨by simpa [MemOp.bytes, num_gregOfNum] using hbyte.symm, ?_⟩
        simp only [MemOp.wf, EA32.wf, hix, hwf, Bool.and_self]
      next => cases h

theorem decodeMem32_eq_ok {mod : Nat} {rm : Fin 8} {bs rest : List Byte} {m : MemOp} (hmod : mod < 3)
    (h : decodeMem32 mod rm bs = .ok (m, rest)) (r : Fin 8) :
    modRm mod r rm.val :: bs = m.bytes r ++ rest ∧ m.wf true = true := by
  unfold decodeMem32 at h
  split at h
  next hsib =>
    subst hsib
    exact decodeSib_eq_ok hmod h r
  next hsib =>
  split at h
  next hdirect =>
    obtain ⟨rfl, rfl⟩ := hdirect
    split at h
    next v w hv =>
      cases h
      obtain ⟨rfl, hlt⟩ := takeLe_eq_some hv
      exact ⟨by simp [MemOp.bytes, bv32_toNat hlt], rfl⟩
    next => cases h
  next hbased =>
    split at h
    next d w hd =>
      cases h
      obtain ⟨rfl, rfl⟩ := decodeDisp_eq_ok (n := 4) hmod hd
      have hesp : GReg.ofNum rm ≠ .esp := by
        intro he
        refine hsib (Fin.ext ?_)
        rw [← num_gregOfNum, he]
        rfl
      have hwf : baseWf (GReg.ofNum rm) d = true := by
        refine baseWf_of_not fun h => hbased ⟨h.1, Fin.ext ?_⟩
        rw [← num_gregOfNum, h.2]
        rfl
      exact ⟨by simp [MemOp.bytes, num_gregOfNum], by simp [MemOp.wf, EA32.wf, hesp, hwf]⟩
    next => cases h

/-! ## The opcode bytes (R106 steps 2 to 6) -/

theorem decodeOpcode_bytes {default32 : Bool} {p : List Prefix} {f : Form}
    (h : f.wf (addrSize32 default32 p) = true) (rest : List Byte) :
    decodeOpcode default32 p (f.bytes ++ rest) = .ok (.ofForm p f, rest) := by
  cases f with
  | wait => rfl
  | reg op r i =>
    obtain ⟨hne, h27, hop⟩ := escByte_fields op
    obtain ⟨hmod, hr, hrm⟩ := modRm_fields (mod := 3) r (by decide) i.isLt
    have hrm : fin8 (modRm 3 r i.val).toNat = i := Fin.ext hrm
    simp [decodeOpcode, Form.bytes, show ¬escByte op = 155#8 from hne, h27, hop, hmod, hr, hrm, Instr.ofForm]
  | mem op r m =>
    obtain ⟨hne, h27, hop⟩ := escByte_fields op
    obtain ⟨b2, tail, hbytes, hmod, hr, hm⟩ := decodesTo_bytes r h rest
    have hmod : b2.toNat / 64 ≠ 3 := by omega
    simp [decodeOpcode, Form.bytes, hbytes, show ¬escByte op = 155#8 from hne, h27, hop, hmod, hr, hm, Instr.ofForm]

/-- The first byte of a form is none of the prefixes. -/
theorem splitPrefixes_form (f : Form) (rest : List Byte) :
    splitPrefixes (f.bytes ++ rest) = ([], f.bytes ++ rest) := by
  cases f with
  | wait => rfl
  | reg op r i => exact splitPrefixes_of_none (ofCode_escByte op) _
  | mem op r m => exact splitPrefixes_of_none (ofCode_escByte op) _

/-- Settles O1: the prefixes are split off, the opcode bytes give the form back, and the form and the prefixes are the
instruction. -/
theorem encodeThenDecode : Obligations.EncodeThenDecode := by
  intro default32 i rest hwf
  have hform : i.form.wf (addrSize32 default32 i.prefixes) = true := (Bool.and_eq_true_iff.mp hwf).1
  have hsplit : splitPrefixes (i.encode ++ rest) = (i.prefixes, i.form.bytes ++ rest) := by
    rw [Instr.encode, List.append_assoc]
    exact splitPrefixes_map_code i.prefixes (splitPrefixes_form i.form rest)
  rw [decode, hsplit, decodeOpcode_bytes hform, ofForm_form]

theorem decodeOpcode_eq_ok {default32 : Bool} {p : List Prefix} {bs rest : List Byte} {i : Instr}
    (h : decodeOpcode default32 p bs = .ok (i, rest)) :
    bs = i.form.bytes ++ rest ∧ i.prefixes = p ∧ i.form.wf (addrSize32 default32 p) = true := by
  match bs with
  | [] => cases h
  | b1 :: bs =>
    simp only [decodeOpcode] at h
    split at h
    next hwait =>
      cases h
      exact ⟨by rw [hwait]; rfl, rfl, rfl⟩
    next =>
    split at h
    next h27 =>
      match bs with
      | [] => cases h
      | b2 :: bs =>
        have hb2 := b2.isLt
        have hbyte := modRm_of_fields b2
        simp only at h
        split at h
        next hmod =>
          cases h
          obtain ⟨hform, hp⟩ := ofReg_spec p (fin8 b1.toNat) (fin8 (b2.toNat / 8)) (fin8 b2.toNat)
          rw [hmod] at hbyte
          refine ⟨?_, hp, by rw [hform]; rfl⟩
          rw [hform, Form.bytes, escByte_of_fields h27, hbyte]
          rfl
        next hmod =>
          have hmod : b2.toNat / 64 < 3 := by omega
          split at h
          next m r hm =>
            cases h
            obtain ⟨hform, hp⟩ := ofMem_spec p (fin8 b1.toNat) (fin8 (b2.toNat / 8)) m
            obtain ⟨hbytes, hwf⟩ : b2 :: bs = m.bytes (fin8 (b2.toNat / 8)) ++ rest
                ∧ m.wf (addrSize32 default32 p) = true := by
              cases has : addrSize32 default32 p with
              | true =>
                rw [has] at hm
                simpa only [hbyte] using decodeMem32_eq_ok hmod hm (fin8 (b2.toNat / 8))
              | false =>
                rw [has] at hm
                simpa only [hbyte] using decodeMem16_eq_ok hmod hm (fin8 (b2.toNat / 8))
            rw [hform, Form.bytes, escByte_of_fields h27, hbytes]
            exact ⟨rfl, hp, hwf⟩
          next => cases h
    next => split at h <;> cases h

/-- Settles O2: the prefixes are the bytes before, and the opcode bytes are those of the form. -/
theorem decodeThenEncode : Obligations.DecodeThenEncode := by
  intro default32 bs rest i h
  obtain ⟨hbytes, hp, hwf⟩ := decodeOpcode_eq_ok h
  refine ⟨?_, by rw [hp]; exact hwf⟩
  rw [splitPrefixes_inverse bs, hbytes, Instr.encode, hp, List.append_assoc]

/-- Settles O3: the decoder computes each of the seven. -/
theorem wordsOfTheSpecDecode : Obligations.WordsOfTheSpecDecode := by
  refine ⟨?_, ?_, ?_, ?_, ?_, ?_, ?_⟩ <;> decide

end Sys2Proof

/-! # Frames (O13 to O18): what an instruction leaves unchanged

A `Frame` names what a body may change; every operation of the model stays within it, first the updates of the state, then
the shared operations, then the families of instructions.  What follows for a whole instruction is said in `Executed`,
and the six statements about all instructions are read off from it. -/

namespace Sys2Proof.Machine

/-- What the body of an instruction may change, beside TOP, the condition code and flags that it sets: the registers of
its results, the tags of others, and flags that it leaves undefined. -/
structure Frame where
  start : State
  results : List (Fin 8)
  retagged : List (Fin 8)
  loose : List Exc

/-- `t` differs from the start of the frame only within the frame. -/
structure Frame.Holds (F : Frame) (t : State) : Prop where
  control : F.start.KeepsControl t
  fdp : t.fdp = F.start.fdp
  mem : t.mem = F.start.mem
  regs : F.start.KeepsRegs t F.results
  tags : F.start.KeepsTags t (F.results ++ F.retagged)
  sf : F.start.sw.sf = true → t.sw.sf = true
  flags : ∀ x, F.start.sw.flag x = true → x ∉ F.loose → t.sw.flag x = true

/-- The same before TOP moves. -/
def Frame.Core (F : Frame) (t : State) : Prop := F.Holds t ∧ t.sw.top = F.start.sw.top

/-- A change that ends within the frame. -/
def Frame.Leads (F : Frame) (f : State → State) : Prop := ∀ t : State, F.Core t → F.Holds (f t)

section Updates

variable {F : Frame} {t : State} {k : Fin 8} {v : Ext} {b c3 c2 c0 : Bool} {x : Exc}

theorem frame_start : F.Core F.start :=
  ⟨⟨keepsControl_refl _, rfl, rfl, fun _ _ => rfl, fun _ _ => rfl, id, fun _ h _ => h⟩, rfl⟩

theorem frame_leads_id : F.Leads id := fun _ h => h.1

/-- A change of the status word that keeps SF and the flags, TOP apart. -/
theorem Frame.Holds.setSw (h : F.Holds t) {w : StatusWord} (hsf : t.sw.sf = true → w.sf = true)
    (hfl : ∀ x, t.sw.flag x = true → x ∉ F.loose → w.flag x = true) : F.Holds { t with sw := w } := by
  obtain ⟨hc, hd, hm, hr, ht, hs, hf⟩ := h
  exact ⟨hc, hd, hm, hr, ht, fun h => hsf (hs h), fun x h hx => hfl x (hf x h hx) hx⟩

theorem Frame.Holds.setC1 (h : F.Holds t) : F.Holds (t.setC1 b) := h.setSw id fun x hx _ => by cases x <;> exact hx

theorem Frame.Holds.raise (h : F.Holds t) : F.Holds (t.raise x) :=
  h.setSw (fun hs => (setFlag_sf t.sw x).trans hs) fun y hy _ => by
    have := flag_raise t x y
    rw [hy, Bool.true_or] at this
    exact this

theorem Frame.Core.setC1 (h : F.Core t) : F.Core (t.setC1 b) := ⟨h.1.setC1, h.2⟩
theorem Frame.Core.setC2 (h : F.Core t) : F.Core (t.setC2 b) :=
  ⟨h.1.setSw id fun x hx _ => by cases x <;> exact hx, h.2⟩
theorem Frame.Core.setCompare (h : F.Core t) : F.Core (t.setCompare c3 c2 c0) :=
  ⟨h.1.setSw id fun x hx _ => by cases x <;> exact hx, h.2⟩
theorem Frame.Core.unordered (h : F.Core t) : F.Core t.unordered := h.setCompare
theorem Frame.Core.setOrder (h : F.Core t) {o : Ordering} : F.Core (t.setOrder o) := by
  cases o <;> exact h.setCompare
theorem Frame.Core.setQuotient (h : F.Core t) {q : Nat} : F.Core (t.setQuotient q) := h.setCompare.setC1

/-- The count of draws is no part of a frame. -/
theorem Frame.Core.drew (h : F.Core t) : F.Core t.drew := by
  obtain ⟨⟨hc, hd, hm, hr, ht, hs, hf⟩, htop⟩ := h
  exact ⟨⟨hc, hd, hm, hr, ht, hs, hf⟩, htop⟩

theorem Frame.Core.drawC320 (h : F.Core t) : F.Core t.drawC320 := h.drew.setCompare
theorem Frame.Core.drawC320ClearC1 (h : F.Core t) : F.Core t.drawC320ClearC1 := h.drawC320.setC1
theorem Frame.Core.drawC30 (h : F.Core t) : F.Core t.drawC30 :=
  ⟨h.drew.1.setSw id fun x hx _ => by cases x <;> exact hx, h.2⟩
theorem Frame.Core.drawC2 (h : F.Core t) : F.Core t.drawC2 := h.drew.setC2
theorem Frame.Core.drawC1 (h : F.Core t) : F.Core t.drawC1 := h.drew.setC1
theorem Frame.Core.drawC3210 (h : F.Core t) : F.Core t.drawC3210 :=
  ⟨h.drew.1.setSw id fun x hx _ => by cases x <;> exact hx, h.2⟩

/-- PE undefined is within a frame that leaves PE loose (R310, U10). -/
theorem Frame.Core.drawPe (h : F.Core t) (hpe : .pe ∈ F.loose) : F.Core t.drawPe := by
  refine ⟨h.drew.1.setSw id fun x hx hl => ?_, h.2⟩
  cases x
  case pe => exact absurd hpe hl
  all_goals exact hx

theorem Frame.Core.raise (h : F.Core t) : F.Core (t.raise x) := ⟨h.1.raise, (setFlag_top t.sw x).trans h.2⟩

theorem Frame.Core.raiseIf (h : F.Core t) : F.Core (t.raiseIf b x) := by
  cases b
  · exact h
  · exact h.raise

theorem Frame.Core.raiseAll {fs : List Exc} (h : F.Core t) : F.Core (t.raiseAll fs) := by
  induction fs generalizing t with
  | nil => exact h
  | cons x fs ih => exact ih h.raise

/-- A stack fault is `raise IE` after SF and C1 (R410). -/
theorem Frame.Core.stackFault (h : F.Core t) {o : Bool} : F.Core (t.stackFault o) :=
  Frame.Core.raise (t := { t with sw := { t.sw with sf := true, c1 := o } })
    ⟨h.1.setSw (fun _ => rfl) fun x hx _ => by cases x <;> exact hx, h.2⟩

theorem Frame.Holds.putReg (h : F.Holds t) (hk : k ∈ F.results) : F.Holds (t.putReg k v) := by
  obtain ⟨hc, hd, hm, hr, ht, hs, hf⟩ := h
  refine ⟨hc, hd, hm, fun j hj => ?_, fun j hj => ?_, hs, hf⟩
  · rw [reg_putReg, if_neg (ne_of_mem_of_not_mem hk hj).symm]
    exact hr j hj
  · rw [isEmpty_putReg, if_neg (ne_of_mem_of_not_mem (List.mem_append_left _ hk) hj).symm]
    exact ht j hj

theorem Frame.Holds.freeReg (h : F.Holds t) (hk : k ∈ F.results ++ F.retagged) : F.Holds (t.freeReg k) := by
  obtain ⟨hc, hd, hm, hr, ht, hs, hf⟩ := h
  refine ⟨hc, hd, hm, hr, fun j hj => ?_, hs, hf⟩
  rw [isEmpty_freeReg, if_neg (ne_of_mem_of_not_mem hk hj).symm]
  exact ht j hj

theorem Frame.Holds.setTop (h : F.Holds t) : F.Holds (t.setTop k) := h.setSw id fun x hx _ => by cases x <;> exact hx

/-- Before TOP moves, ST(i) is the register it was at the start. -/
theorem Frame.Core.phys (h : F.Core t) (i : Fin 8) : t.phys i = F.start.phys i := congrArg (· + i) h.2

theorem Frame.Core.putReg (h : F.Core t) (hk : k ∈ F.results) : F.Core (t.putReg k v) := ⟨h.1.putReg hk, h.2⟩
theorem Frame.Core.putExact (h : F.Core t) (hk : k ∈ F.results) : F.Core (t.putExact k v) := h.setC1.putReg hk

theorem Frame.Core.putPhys (h : F.Core t) {i : Fin 8} (hk : F.start.phys i ∈ F.results) :
    F.Core (t.putReg (t.phys i) v) := h.putReg (by rwa [h.phys])
theorem Frame.Core.putPhysExact (h : F.Core t) {i : Fin 8} (hk : F.start.phys i ∈ F.results) :
    F.Core (t.putExact (t.phys i) v) := h.setC1.putPhys hk
theorem Frame.Core.putSt (h : F.Core t) {i : Fin 8} (hk : F.start.phys i ∈ F.results) : F.Core (t.putSt i v) :=
  h.putPhys hk

/-- A pop stays within a frame that has the top among its registers. -/
theorem frame_leads_pop (hk : F.start.phys 0 ∈ F.results ++ F.retagged) : F.Leads State.pop := fun t h =>
  Frame.Holds.setTop (h.1.freeReg (by rw [h.2, ← add_zero F.start.sw.top]; exact hk))

theorem frame_leads_pop2 (h0 : F.start.phys 0 ∈ F.results ++ F.retagged)
    (h1 : F.start.phys 1 ∈ F.results ++ F.retagged) : F.Leads State.pop2 := fun t h =>
  Frame.Holds.setTop ((frame_leads_pop h0 t h).freeReg (by rw [(pop_spec t).1, h.2]; exact h1))

/-- A push stays within a frame that has ST(7) among its results. -/
theorem frame_leads_push (hk : F.start.phys 7 ∈ F.results) (v : Ext) : F.Leads fun u => u.push v := fun t h =>
  Frame.Holds.putReg h.1.setTop (by rw [← phys_seven, h.phys]; exact hk)

end Updates

/-! ## Responses and delivery (R134, R165, R300, R403, R410) -/

section Responses

variable {F : Frame} {t : State} {k : Fin 8} {x : Exc} {resp : State → State} {respS : State → Stored}

theorem Frame.Core.respond (h : F.Core t) (hr : F.Leads resp) : F.Holds (t.respond x resp) := by
  rcases respond_cases t x resp with ⟨_, e⟩ | ⟨_, e⟩ <;> rw [e]
  · exact hr _ h.raise
  · exact h.raise.1

theorem Frame.Core.faultThen (h : F.Core t) {o : Bool} (hr : F.Leads resp) : F.Holds (t.faultThen o resp) := by
  rcases faultThen_cases t o resp with ⟨_, e⟩ | ⟨_, e⟩ <;> rw [e]
  · exact hr _ h.stackFault
  · exact h.stackFault.1

theorem Frame.Core.denormThen (h : F.Core t) {d : Bool} (hr : F.Leads resp) : F.Holds (t.denormThen d resp) := by
  rcases denormThen_cases t d resp with ⟨_, e⟩ | ⟨_, e⟩ <;> rw [e]
  · exact hr _ h
  · exact h.respond hr

theorem Frame.Core.respondStore (h : F.Core t) (hr : F.Leads fun u => (respS u).1) :
    F.Holds (t.respondStore x respS).1 := by
  unfold State.respondStore
  split
  · exact hr _ h.raise
  · exact h.raise.1

theorem Frame.Core.faultStore (h : F.Core t) (hr : F.Leads fun u => (respS u).1) : F.Holds (t.faultStore respS).1 := by
  unfold State.faultStore
  split
  · exact hr _ h.stackFault
  · exact h.stackFault.1

theorem Frame.Core.deliverSt (h : F.Core t) {i : Fin 8} (hk : F.start.phys i ∈ F.results) {neg : Bool} {m : Mag}
    {p : Nat} : F.Core (t.deliverSt (t.phys i) neg m p) :=
  Frame.Core.putReg h.raiseAll.setC1 (by rwa [h.phys])

theorem Frame.Core.deliverTrans (h : F.Core t) {i : Fin 8} (hk : F.start.phys i ∈ F.results) {v : Bool × Mag}
    {up : Bool} : F.Core (t.deliverTrans (t.phys i) v up) :=
  Frame.Core.putReg h.raiseAll.raise.setC1 (by rwa [h.phys])

theorem Frame.Core.deliverRem (h : F.Core t) (hk : F.start.phys 0 ∈ F.results) {neg flip : Bool} {m : Mag} :
    F.Core (t.deliverRem neg flip m) := by
  unfold State.deliverRem
  split
  · exact h.putPhys hk
  · exact h.raiseAll.putReg (by rwa [← h.phys] at hk)

theorem Frame.Core.putPi (h : F.Core t) {i : Fin 8} (hk : F.start.phys i ∈ F.results) {num j : Nat} {neg : Bool} :
    F.Core (t.putPi (t.phys i) num j neg) :=
  Frame.Core.putReg h.raise.setC1 (by rwa [h.phys])

theorem Frame.Core.putUndefined (h : F.Core t) {i : Fin 8} (hk : F.start.phys i ∈ F.results) (hpe : .pe ∈ F.loose) :
    F.Core (t.putUndefined (t.phys i)) :=
  Frame.Core.drawPe (Frame.Core.drawC1 (h.drew.putReg (by rwa [h.phys]))) hpe

end Responses
end Sys2Proof.Machine

namespace Sys2Proof.Machine

/-! ## The families of instructions (R201 to R312) -/

section Families

variable {F : Frame} {fin : State → State} {p : Nat}

/-! ### The basic operations (R230 to R242, R253 to R258) -/

theorem arithNumbers_leads {op : ArithOp} {k : Fin 8} {x y : Ext} {memden : Bool} (hk : k ∈ F.results)
    (hkp : ∃ i, k = F.start.phys i) (hfin : F.Leads fin) : F.Leads (arithNumbers op k x y memden p fin) := by
  intro t h
  unfold arithNumbers
  split
  · exact h.respond fun u hu => hfin _ (hu.putExact hk)
  split
  · exact h.respond fun u hu => hfin _ (hu.putExact hk)
  · refine h.denormThen fun u hu => ?_
    split
    · exact hfin _ (hu.putExact hk)
    · obtain ⟨i, rfl⟩ := hkp
      rw [← hu.phys i]
      exact hfin _ (hu.deliverSt hk)

theorem arith_leads {op : ArithOp} {k : Fin 8} {x y : Ext} {memden : Bool} (hk : k ∈ F.results)
    (hkp : ∃ i, k = F.start.phys i) (hfin : F.Leads fin) : F.Leads (arith op k x y memden p fin) := by
  intro t h
  unfold arith
  split
  · exact h.respond fun u hu => hfin _ (hu.putExact hk)
  split
  · exact h.respond fun u hu => hfin _ (hu.putExact hk)
  split
  · exact hfin _ (h.putExact hk)
  split
  · exact arithNumbers_leads hk hkp hfin t h
  · exact arithNumbers_leads hk hkp hfin t h

theorem arithOrdered_leads {op : ArithOp} {o : Order} {k : Fin 8} {x y : Ext} {memden : Bool} (hk : k ∈ F.results)
    (hkp : ∃ i, k = F.start.phys i) (hfin : F.Leads fin) : F.Leads (arithOrdered op o k x y memden p fin) := by
  cases o
  · exact arith_leads hk hkp hfin
  · exact arith_leads hk hkp hfin

theorem arithRegs_leads {op : ArithOp} {o : Order} {d i : Fin 8} (hk : F.start.phys d ∈ F.results)
    (hfin : F.Leads fin) (p : Nat) : F.Leads (arithRegs op o d i fin p) := by
  intro t h
  have hd : F.Core t.drawC320 := h.drawC320
  unfold arithRegs
  dsimp only
  split
  · exact hd.faultThen fun u hu => hfin _ (hu.putSt hk)
  · exact arithOrdered_leads (by rwa [hd.phys]) ⟨d, hd.phys d⟩ hfin _ hd

theorem arithMem_leads {op : ArithOp} {o : Order} {y : Ext} {memden : Bool} (hk : F.start.phys 0 ∈ F.results) :
    F.Leads (arithMem op o y memden p) := by
  intro t h
  have hd : F.Core t.drawC320 := h.drawC320
  unfold arithMem
  dsimp only
  split
  · exact hd.faultThen fun u hu => (hu.putSt hk).1
  · exact arithOrdered_leads (by rwa [hd.phys]) ⟨0, hd.phys 0⟩ frame_leads_id _ hd

theorem arithReal_leads {op : ArithOp} {o : Order} {f : Fmt} (hk : F.start.phys 0 ∈ F.results) (bs : List Byte)
    (p : Nat) : F.Leads (arithReal op o f bs p) := arithMem_leads hk

theorem arithInt_leads {op : ArithOp} {o : Order} (hk : F.start.phys 0 ∈ F.results) (bs : List Byte) (p : Nat) :
    F.Leads (arithInt op o bs p) := arithMem_leads hk

/-! ### Instructions with one operand (R243 to R252) -/

section OneOperand

variable {dup go : Ext → State → State} (hk : F.start.phys 0 ∈ F.results)
include hk

theorem oneOperand_leads (hdup : ∀ v, F.Leads (dup v)) (hgo : ∀ x, F.Leads (go x)) :
    F.Leads (oneOperand dup go) := by
  intro t h
  unfold oneOperand
  dsimp only
  rw [h.phys]
  split
  · exact h.faultThen fun u hu => hdup _ _ (hu.putReg hk)
  split
  · exact h.respond fun u hu => hdup _ _ (hu.putExact hk)
  split
  · exact h.respond fun u hu => hdup _ _ (hu.putExact hk)
  split
  · exact hdup _ _ h.setC1
  · exact hgo _ t h

theorem oneOperandPush_leads (h7 : F.start.phys 7 ∈ F.results) (hgo : ∀ x, F.Leads (go x)) :
    F.Leads (oneOperandPush go) := by
  intro t h
  unfold oneOperandPush
  split
  · exact h.faultThen fun u hu => frame_leads_push h7 _ _ (hu.putSt hk)
  · exact oneOperand_leads hk (frame_leads_push h7) hgo t h

theorem squareRoot_leads (p : Nat) : F.Leads (squareRoot p) := by
  refine fun t h => oneOperand_leads hk (fun _ => frame_leads_id) (fun x u hu => ?_) _ h.drawC320
  split
  · exact hu.setC1.1
  split
  · exact hu.respond fun v hv => (hv.putPhysExact hk).1
  split
  · exact hu.setC1.1
  · exact hu.denormThen fun v hv => (hv.deliverSt hk).1

theorem roundToInteger_leads : F.Leads roundToInteger := by
  refine fun t h => oneOperand_leads hk (fun _ => frame_leads_id) (fun x u hu => ?_) _ h.drawC320
  dsimp only
  split
  · exact hu.setC1.1
  · refine hu.denormThen fun v hv => ?_
    split
    · exact hv.setC1.1
    · exact (hv.raiseIf.setC1.putReg (by rwa [hv.phys])).1

theorem extract_leads (h7 : F.start.phys 7 ∈ F.results) : F.Leads extract := by
  refine fun t h => oneOperandPush_leads hk h7 (fun x u hu => ?_) _ h.drawC320ClearC1
  split
  · exact hu.respond fun v hv => frame_leads_push h7 _ _ (hv.putPhys hk)
  split
  · exact frame_leads_push h7 _ _ (hu.putPhys hk)
  · exact hu.denormThen fun v hv => frame_leads_push h7 _ _ (hv.putPhys hk)

theorem changeSign_leads {f : Bool → Bool} : F.Leads (changeSign f) := by
  intro t h
  have hd : F.Core t.drawC320ClearC1 := h.drawC320ClearC1
  unfold changeSign
  dsimp only
  split
  · exact hd.faultThen fun u hu => (hu.putSt hk).1
  · exact (hd.putPhys hk).1

end OneOperand

/-! ### Instructions with the operands ST and ST(1) (R246, R262, R263) -/

theorem twoOperands_leads {d : Fin 8} {put : State → Fin 8 → Ext → State}
    {go : Ext → Ext → State → State} (hk : F.start.phys d ∈ F.results)
    (hput : ∀ t v, F.Core t → F.Core (put t (F.start.phys d) v)) (hfin : F.Leads fin)
    (hgo : ∀ x y, F.Leads (go x y)) : F.Leads (twoOperands d put fin go) := by
  intro t h
  unfold twoOperands
  dsimp only
  rw [h.phys]
  split
  · exact h.faultThen fun u hu => hfin _ (hu.putReg hk)
  split
  · exact h.respond fun u hu => hfin _ (hput u _ hu)
  split
  · exact h.respond fun u hu => hfin _ (hput u _ hu)
  split
  · exact hfin _ (hput t _ h)
  · exact hgo _ _ t h

theorem scaleBy_leads (hk : F.start.phys 0 ∈ F.results) : F.Leads scaleBy := by
  refine fun t h => twoOperands_leads hk (fun _ _ hu => hu.putExact hk) frame_leads_id (fun x y u hu => ?_) _
    h.drawC320
  split
  · exact hu.respond fun v hv => (hv.putPhysExact hk).1
  · refine hu.denormThen fun v hv => ?_
    split
    · exact hv.setC1.1
    split
    · exact (hv.putPhysExact hk).1
    split
    · exact hv.setC1.1
    · exact (hv.deliverSt hk).1

theorem remNumbers_leads {nearest : Bool} {x y : Ext} (hk : F.start.phys 0 ∈ F.results) :
    F.Leads (remNumbers nearest x y) := by
  intro t h
  unfold remNumbers
  dsimp only
  split
  · exact h.setQuotient.1
  split
  · split
    · exact (h.setQuotient.deliverRem hk).1
    · exact (h.setQuotient.deliverRem hk).1
  · exact (h.setCompare.setC1.deliverRem hk).1

theorem remainder_leads {nearest : Bool} (hk : F.start.phys 0 ∈ F.results) : F.Leads (remainder nearest) := by
  refine fun t h => twoOperands_leads hk (fun _ _ hu => hu.putReg hk) frame_leads_id (fun x y u hu => ?_) _
    h.drawC3210
  split
  · exact hu.setC2.respond fun v hv => (hv.putPhys hk).1
  · exact hu.denormThen (remNumbers_leads hk)

/-! ### Comparisons (R280 to R291) -/

section Comparisons

variable {quietOk memden : Bool} (hfin : F.Leads fin)
include hfin

theorem compare2_leads {x y : Ext} : F.Leads (compare2 x y memden quietOk fin) := by
  intro t h
  have hc : F.Core (t.setC1 false) := h.setC1
  unfold compare2
  dsimp only
  split
  · exact hc.unordered.respond hfin
  split
  · exact hfin _ hc.unordered
  split
  · split
    · exact hfin _ hc.raise.setOrder
    · exact hc.raise.drawC320.1
  · exact hfin _ hc.setOrder

theorem compareFault_leads : F.Leads (compareFault fin) := fun _ h => h.unordered.faultThen hfin

theorem compareMem_leads {y : Ext} : F.Leads (compareMem y memden fin) := by
  intro t h
  unfold compareMem
  split
  · exact compareFault_leads hfin t h
  · exact compare2_leads hfin t h

theorem compareReg_leads {i : Fin 8} : F.Leads (compareReg i quietOk fin) := by
  intro t h
  unfold compareReg
  split
  · exact compareFault_leads hfin t h
  · exact compare2_leads hfin t h

theorem compareReal_leads {f : Fmt} (bs : List Byte) : F.Leads (compareReal f bs fin) := compareMem_leads hfin
theorem compareInt_leads (bs : List Byte) : F.Leads (compareInt bs fin) := compareMem_leads hfin

end Comparisons

theorem examine_leads : F.Leads examine := by
  intro t h
  unfold examine
  dsimp only
  split
  · exact h.setC1.setCompare.1
  · split <;> exact h.setC1.setCompare.1

/-! ### Loads, constants, stores and exchange (R201 to R211, R321) -/

section Loads

variable (h7 : F.start.phys 7 ∈ F.results)
include h7

theorem loadReal_leads {f : Fmt} {w : Nat} : F.Leads (loadReal f w) := by
  intro t h
  have hd : F.Core t.drawC320ClearC1 := h.drawC320ClearC1
  unfold loadReal
  dsimp only
  split
  · exact hd.faultThen (frame_leads_push h7 _)
  split
  · exact hd.respond (frame_leads_push h7 _)
  · exact hd.denormThen (frame_leads_push h7 _)

theorem loadPlain_leads {x : Ext} : F.Leads (loadPlain x) := by
  intro t h
  have hd : F.Core t.drawC320ClearC1 := h.drawC320ClearC1
  unfold loadPlain
  dsimp only
  split
  · exact hd.faultThen (frame_leads_push h7 _)
  · exact frame_leads_push h7 _ _ hd

theorem loadConst_leads {c : Mag} : F.Leads (loadConst c) := fun t h => loadPlain_leads h7 t h

theorem loadSt_leads {i : Fin 8} : F.Leads (loadSt i) := by
  intro t h
  have hd : F.Core t.drawC320ClearC1 := h.drawC320ClearC1
  unfold loadSt
  dsimp only
  split
  · exact hd.faultThen (frame_leads_push h7 _)
  split
  · exact hd.faultThen (frame_leads_push h7 _)
  · exact frame_leads_push h7 _ _ hd

theorem loadBcd_leads {w : Nat} : F.Leads (loadBcd w) := by
  intro t h
  have hd : F.Core t.drawC320ClearC1 := h.drawC320ClearC1
  unfold loadBcd
  dsimp only
  split
  · exact hd.faultThen (frame_leads_push h7 _)
  split
  · exact frame_leads_push h7 _ _ hd
  · exact frame_leads_push h7 _ _ hd.drew

end Loads

theorem storeSt_leads {i : Fin 8} (hk : F.start.phys i ∈ F.results) (hfin : F.Leads fin) :
    F.Leads (storeSt i fin) := by
  intro t h
  have hd : F.Core t.drawC320 := h.drawC320
  unfold storeSt
  dsimp only
  split
  · exact hd.faultThen fun u hu => hfin _ (hu.putSt hk)
  · exact hfin _ (hd.putPhysExact hk)

theorem exchange_leads {i : Fin 8} (h0 : F.start.phys 0 ∈ F.results) (hi : F.start.phys i ∈ F.results) :
    F.Leads (exchange i) := by
  intro t h
  have hd : F.Core t.drawC320ClearC1 := h.drawC320ClearC1
  unfold exchange
  dsimp only
  generalize (if t.drawC320ClearC1.stEmpty 0 then indefinite else t.drawC320ClearC1.st 0) = a
  generalize (if t.drawC320ClearC1.stEmpty i then indefinite else t.drawC320ClearC1.st i) = b
  split
  · exact hd.faultThen fun u hu => ((hu.putSt h0).putSt hi).1
  · exact ((hd.putSt h0).putSt hi).1

/-! ### Stores to memory: what they do beside the bytes they answer (R203 to R211) -/

section Stores

variable (hfin : F.Leads fin)
include hfin

theorem storeFinite_leads {f : Fmt} {x : Ext} : F.Leads fun t => (storeFinite f x fin t).1 := by
  intro t h
  unfold storeFinite
  dsimp only
  split
  · exact h.raiseAll.1
  · exact hfin _ h.raiseAll.setC1

theorem storeReal_leads {f : Fmt} : F.Leads fun t => (storeReal f fin t).1 := by
  intro t h
  have hd : F.Core t.drawC320 := h.drawC320
  have hclear : F.Leads fun u => fin (u.setC1 false) := fun u hu => hfin _ hu.setC1
  unfold storeReal
  dsimp only
  split
  · exact hd.faultStore hfin
  · split
    · exact hd.respondStore hclear
    · exact hd.respondStore hclear
    · exact hclear _ hd
    · exact hclear _ hd
    · exact hclear _ hd
    · exact hd.respondStore (storeFinite_leads hfin)
    · exact hd.respondStore (storeFinite_leads hfin)
    · exact storeFinite_leads hfin _ hd

theorem storeInt_leads {n : Nat} : F.Leads fun t => (storeInt n fin t).1 := by
  intro t h
  have hd : F.Core t.drawC320 := h.drawC320
  unfold storeInt
  dsimp only
  split
  · exact hd.faultStore hfin
  split
  · exact hd.respondStore fun u hu => hfin _ hu.setC1
  · exact hfin _ hd.raiseIf.setC1

end Stores

theorem storeExt_leads (hpop : F.Leads State.pop) : F.Leads fun t => (storeExt t).1 := by
  intro t h
  have hd : F.Core t.drawC320ClearC1 := h.drawC320ClearC1
  unfold storeExt
  dsimp only
  split
  · exact hd.faultStore hpop
  · exact hpop _ hd

theorem storeBcd_leads (hpop : F.Leads State.pop) : F.Leads fun t => (storeBcd t).1 := by
  intro t h
  have hd : F.Core t.drawC320 := h.drawC320
  unfold storeBcd
  dsimp only
  split
  · exact hd.faultStore fun u hu => hpop _ hu.drew
  split
  · exact hd.respondStore fun u hu => hpop _ hu.setC1.drew
  · exact hpop _ hd.raiseIf.setC1

/-! ### Transcendental instructions (R300 to R312) -/

section Transcendental

variable {dup go : Ext → State → State} (hk : F.start.phys 0 ∈ F.results)
include hk

theorem trigNumber_leads (hdup : ∀ v, F.Leads (dup v)) (hgo : ∀ x, F.Leads (go x)) (x : Ext) :
    F.Leads (trigNumber dup go x) := by
  intro t h
  unfold trigNumber
  split
  · exact h.drawC1.setC2.respond fun u hu => hdup _ _ (hu.putPhys hk)
  · refine h.denormThen fun u hu => ?_
    split
    · exact hu.drawC1.setC2.1
    · exact hgo x _ hu.setC2

theorem trigOne_leads (hgo : ∀ x, F.Leads (go x)) : F.Leads (trigOne go) := fun _ h =>
  oneOperand_leads hk (fun _ => frame_leads_id) (trigNumber_leads hk (fun _ => frame_leads_id) hgo) _ h.drawC30.drawC2

theorem trigTwo_leads (h7 : F.start.phys 7 ∈ F.results) (hgo : ∀ x, F.Leads (go x)) : F.Leads (trigTwo go) :=
  fun _ h => oneOperandPush_leads hk h7 (trigNumber_leads hk (frame_leads_push h7) hgo) _ h.drawC30.drawC2

theorem sine_leads : F.Leads sine := by
  refine trigOne_leads hk fun x u hu => ?_
  split
  · exact hu.setC1.1
  · exact (hu.deliverTrans hk).1

theorem cosine_leads : F.Leads cosine := by
  refine trigOne_leads hk fun x u hu => ?_
  split
  · exact (hu.putPhysExact hk).1
  · exact (hu.deliverTrans hk).1

theorem sineCosine_leads (h7 : F.start.phys 7 ∈ F.results) : F.Leads sineCosine := by
  refine trigTwo_leads hk h7 fun x u hu => ?_
  split
  · exact (frame_leads_push h7 _ _ hu).setC1
  · exact (frame_leads_push h7 _ _ (hu.deliverTrans hk)).raise

theorem tangent_leads (h7 : F.start.phys 7 ∈ F.results) : F.Leads tangent := by
  refine trigTwo_leads hk h7 fun x u hu => ?_
  split
  · exact (frame_leads_push h7 _ _ hu).setC1
  · exact frame_leads_push h7 _ _ (hu.deliverTrans hk)

theorem exponential_leads (hpe : .pe ∈ F.loose) : F.Leads exponential := by
  refine fun t h => oneOperand_leads hk (fun _ => frame_leads_id) (fun x u hu => ?_) _ h.drawC320
  split
  · split
    · exact (hu.putPhysExact hk).1
    · exact hu.setC1.1
  split
  · exact hu.setC1.1
  · refine hu.denormThen fun v hv => ?_
    split
    · exact (hv.putUndefined hk hpe).1
    · exact (hv.deliverTrans hk).1

end Transcendental

section TwoOperandFunctions

variable (hk : F.start.phys 1 ∈ F.results) (hpop : F.Leads State.pop)
include hk hpop

theorem arctangent_leads : F.Leads arctangent := by
  refine fun t h => twoOperands_leads hk (fun _ _ hu => hu.putExact hk) hpop (fun x y u hu => ?_) _ h.drawC320
  refine hu.denormThen fun v hv => ?_
  split
  · exact hpop _ (hv.putPhysExact hk)
  · exact hpop _ (hv.putPi hk)
  · exact hpop _ (hv.deliverTrans hk)

theorem logarithm_leads : F.Leads logarithm := by
  refine fun t h => twoOperands_leads hk (fun _ _ hu => hu.putExact hk) hpop (fun x y u hu => ?_) _ h.drawC320
  split
  · exact hu.respond fun v hv => hpop _ (hv.putPhysExact hk)
  split
  · exact hu.respond fun v hv => hpop _ (hv.putPhysExact hk)
  · refine hu.denormThen fun v hv => ?_
    split
    · exact hpop _ (hv.putPhysExact hk)
    · exact hpop _ (hv.deliverTrans hk)

theorem logarithmPlusOne_leads (hpe : .pe ∈ F.loose) : F.Leads logarithmPlusOne := by
  refine fun t h => twoOperands_leads hk (fun _ _ hu => hu.putExact hk) hpop (fun x y u hu => ?_) _ h.drawC320
  split
  · exact hu.respond fun v hv => hpop _ (hv.putPhysExact hk)
  · refine hu.denormThen fun v hv => ?_
    split
    · exact hpop _ (hv.putPhysExact hk)
    · split
      · exact hpop _ (hv.deliverTrans hk)
      · exact hpop _ (hv.putUndefined hk hpe)

end TwoOperandFunctions

end Families

end Sys2Proof.Machine

namespace Sys2Proof.Machine

/-! ## The state that an instruction starts with (R36, R200 (a)) -/

/-- `u` is `s` with what the prelude of a numeric instruction records. -/
structure State.Begun (s u : State) (i : Instr) : Prop where
  regs : u.regs = s.regs
  empty : u.empty = s.empty
  sw : u.sw = s.sw
  cw : u.cw = s.cw
  mem : u.mem = s.mem
  cpu : s.KeepsCpu u
  eip : u.eip = s.eip
  fip : u.fip = ⟨s.seg.cs.sel, s.eip⟩
  fop : u.fop = i.fop
  fdp : ∀ a, s.access i = some a → u.fdp = (s.place i.prefixes a.mem).ptr

theorem begun_recordReg {s : State} {i : Instr} (hmem : s.access i = none) : s.Begun (s.synced.recordReg i) i :=
  ⟨rfl, rfl, rfl, rfl, rfl, ⟨rfl, rfl, rfl, rfl, rfl, rfl, rfl, rfl, rfl, rfl, rfl⟩, rfl, rfl, rfl,
    fun a ha => by rw [hmem] at ha; cases ha⟩

theorem begun_started {s : State} {i : Instr} {m : MemOp} {w : Bool} {n : Nat} (hmem : s.access i = some ⟨m, w, n⟩) :
    s.Begun (s.started .numeric i m w n) i := by
  have hfdp : ∀ a, s.access i = some a → (s.place i.prefixes m).ptr = (s.place i.prefixes a.mem).ptr := by
    intro a ha
    rw [hmem, Option.some.injEq] at ha
    rw [← ha]
  cases w <;>
    exact ⟨rfl, rfl, rfl, rfl, rfl, ⟨rfl, rfl, rfl, rfl, rfl, rfl, rfl, rfl, rfl, rfl, rfl⟩, rfl, rfl, rfl, hfdp⟩

/-- A numeric instruction whose body leaves control and the data pointer alone completes (R36, R40, R41). -/
theorem State.Begun.completed {s u v : State} {i : Instr} (hb : s.Begun u i) (hu : u.KeepsControl v)
    (hfdp : v.fdp = u.fdp) : s.CompletedNumeric (v.advance i) i := by
  obtain ⟨⟨c1, c2, c3, c4, c5, c6, c7, c8, c9, c10, c11⟩, heip, hcw, hfip, hfop⟩ := hu
  obtain ⟨d1, d2, d3, d4, d5, d6, d7, d8, d9, d10, d11⟩ := hb.cpu
  have hseg : v.seg = s.seg := c2.trans d2
  have hmode : v.mode = s.mode := c3.trans d3
  have hcode : v.code32 = s.code32 := by rw [State.code32, State.code32, hseg, hmode]
  have hadv : s.Advanced (v.advance i) i := by
    have h := advance_advanced v i
    rw [State.Advanced, heip, hb.eip, hcode] at h
    exact h
  exact ⟨⟨⟨c1.trans d1, hseg, hmode, c4.trans d4, c5.trans d5, c6.trans d6, c7.trans d7, c8.trans d8, c9.trans d9,
    c10.trans d10, c11.trans d11⟩, hadv⟩, hcw.trans hb.cw, hfip.trans hb.fip, hfop.trans hb.fop,
    fun a ha => hfdp.trans (hb.fdp a ha)⟩

/-! ## How an instruction can end (R425, R430 to R434) -/

/-- The instruction has been interrupted: nothing of the processor has changed but what an interrupt changes, and,
unless it is interrupt 9, nothing of the numeric processor. -/
structure Interrupted (s t : State) (i : Instr) : Prop where
  mem : s.KeepsMemory t (s.storeAddrs i)
  gpr : t.gpr = s.gpr
  mode : t.mode = s.mode
  cr0 : t.cr0 = s.cr0
  gates : t.gates = s.gates
  denied : t.denied = s.denied
  params : t.params = s.params
  inputs : t.inputs = s.inputs
  links : t.links ≠ s.links
  numeric : t.overrun = false →
    t.regs = s.regs ∧ t.empty = s.empty ∧ t.sw = s.sw ∧ t.cw = s.cw ∧ s.KeepsPointers t

theorem interrupted_takeTrap (s : State) (v : Trap) (i : Instr) : Interrupted s (s.takeTrap v) i :=
  ⟨fun _ _ => rfl, rfl, rfl, rfl, rfl, rfl, rfl, rfl, List.cons_ne_self _ _,
    fun _ => ⟨rfl, rfl, rfl, rfl, rfl, rfl, rfl⟩⟩

theorem interrupted_synced_takeTrap (s : State) (v : Trap) (i : Instr) : Interrupted s (s.synced.takeTrap v) i :=
  ⟨fun _ _ => rfl, rfl, rfl, rfl, rfl, rfl, rfl, rfl, List.cons_ne_self _ _,
    fun _ => ⟨rfl, rfl, rfl, rfl, rfl, rfl, rfl⟩⟩

theorem interrupted_waited_takeTrap (k : Manner) (s : State) (v : Trap) (i : Instr) :
    Interrupted s ((s.waited k).takeTrap v) i := by
  unfold State.waited
  split
  · exact interrupted_synced_takeTrap s v i
  · exact interrupted_takeTrap s v i

theorem interrupted_gated {k : Manner} {s t : State} (i : Instr) (h : gated k s t) : Interrupted s t i := by
  rcases h with ⟨_, rfl⟩ | ⟨_, _, rfl⟩
  · exact interrupted_takeTrap s _ i
  · exact interrupted_synced_takeTrap s _ i

/-- What the prelude records, notes and forgets is nothing of the processor, and no memory. -/
theorem started_keeps (k : Manner) (i : Instr) (m : MemOp) (w : Bool) (n : Nat) (s : State) :
    s.KeepsCpu (s.started k i m w n) ∧ (s.started k i m w n).mem = s.mem := by
  unfold State.started State.noted
  cases k.records <;> cases k.waits <;> cases k.notes <;> cases w <;>
    exact ⟨⟨rfl, rfl, rfl, rfl, rfl, rfl, rfl, rfl, rfl, rfl, rfl⟩, rfl⟩

theorem drawBytes_keepsCpu (s : State) (as : List Nat) : s.KeepsCpu (s.drawBytes as) := by
  induction as generalizing s with
  | nil => exact ⟨rfl, rfl, rfl, rfl, rfl, rfl, rfl, rfl, rfl, rfl, rfl⟩
  | cons a as ih => exact ih (s.drew.store [a] [s.drawn 8])

/-- Interrupt 9 goes to its handler, marks the numeric state unreliable, and writes at most the bytes it is given
(R431, U11). -/
theorem takeOverrun_spec (s : State) (as : List Nat) :
    let t := s.takeOverrun as
    t.overrun = true ∧ s.KeepsMemory t as ∧ t.seg.cs = s.gates.segmentOverrun.cs
      ∧ t.eip = s.gates.segmentOverrun.eip ∧ (∃ l, t.links = l :: s.links ∧ l.trap = .segmentOverrun)
      ∧ t.gpr = s.gpr ∧ t.mode = s.mode ∧ t.cr0 = s.cr0 ∧ t.gates = s.gates ∧ t.denied = s.denied
      ∧ t.params = s.params ∧ t.inputs = s.inputs := by
  intro t
  obtain ⟨h1, -, h3, h4, -, h6, h7, h8, h9, h10, -⟩ := drawBytes_keepsCpu s as
  refine ⟨rfl, drawBytes_keepsMemory s as, ?_, ?_, ⟨_, congrArg (_ :: ·) h7, rfl⟩, h1, h3, h4, h6, h8, h9, h10⟩
  · exact congrArg (·.segmentOverrun.cs) h6
  · exact congrArg (·.segmentOverrun.eip) h6

theorem interrupted_takeOverrun {s : State} {k : Manner} {i : Instr} {m : MemOp} {w : Bool} {n : Nat} {as : List Nat}
    (has : ∀ a ∈ as, a ∈ s.storeAddrs i) : Interrupted s ((s.started k i m w n).takeOverrun as) i := by
  obtain ⟨⟨d1, d2, d3, d4, d5, d6, d7, d8, d9, d10, d11⟩, hmem⟩ := started_keeps k i m w n s
  obtain ⟨hover, hkeeps, -, -, ⟨l, hl, -⟩, c1, c3, c4, c6, c8, c9, c10⟩ := takeOverrun_spec (s.started k i m w n) as
  refine ⟨fun a ha => ?_, c1.trans d1, c3.trans d3, c4.trans d4, c6.trans d6, c8.trans d8, c9.trans d9,
    c10.trans d10, ?_, fun h => by rw [hover] at h; cases h⟩
  · rw [hkeeps a fun h => ha (has a h), hmem]
  · rw [hl, d7]
    exact List.cons_ne_self _ _

theorem reachable_subset (s : State) (p : Place) (n : Nat) : ∀ a ∈ s.reachable p n, a ∈ s.placeAddrs p n := by
  intro a ha
  obtain ⟨k, hk, rfl⟩ := List.mem_map.mp ha
  exact List.mem_map.mpr ⟨k, (List.mem_filter.mp hk).1, rfl⟩

/-! ## An instruction that has been executed -/

/-- The flags that an instruction leaves undefined on some path: PE of F2XM1 and FYL2XP1 (D26). -/
def looseFlags : Instr → List Exc
  | .f2xm1 _ | .fyl2xp1 _ => [.pe]
  | _ => []

/-- The instructions that clear or load the exception flags (R17). -/
def loadsFlags : Instr → Bool
  | .fninit _ | .fnclex _ | .fldenv _ _ | .fnsave _ _ | .frstor _ _ => true
  | _ => false

/-- The instructions that change the control word (R22). -/
def loadsControl : Instr → Bool
  | .fldcw _ _ | .fldenv _ _ | .frstor _ _ | .fninit _ | .fnsave _ _ => true
  | _ => false

/-- The instructions that load the exception pointers (R76). -/
def loadsPointers : Instr → Bool
  | .fldenv _ _ | .frstor _ _ => true
  | _ => false

/-- The instruction has been executed, and what it has changed is what it is meant to change. -/
structure Executed (s t : State) (i : Instr) : Prop where
  mem : s.KeepsMemory t (s.storeAddrs i)
  regs : s.KeepsRegs t (resultRegs s i)
  tags : s.KeepsTags t (resultRegs s i ++ retaggedRegs s i)
  sf : loadsFlags i = false → s.sw.sf = true → t.sw.sf = true
  flags : loadsFlags i = false → ∀ x, s.sw.flag x = true → x ∉ looseFlags i → t.sw.flag x = true
  cw : loadsControl i = false → t.cw = s.cw ∨ (∃ p m, i = .fnstenv p m) ∧ t.cw = s.cw ||| 0x3F
  gpr : t.gpr = s.gpr ∨ (∃ p, i = .fnstswAx p) ∧ { t.gpr with eax := 0 } = { s.gpr with eax := 0 }
    ∧ t.gpr.eax.extractLsb' 16 16 = s.gpr.eax.extractLsb' 16 16
  seg : t.seg = s.seg
  mode : t.mode = s.mode
  cr0 : t.cr0 = s.cr0
  cpuFlags : t.flags = s.flags
  gates : t.gates = s.gates
  links : t.links = s.links
  denied : t.denied = s.denied
  params : t.params = s.params
  inputs : t.inputs = s.inputs
  advanced : s.Advanced t i
  kept : keepsPointers i = true → s.KeepsPointers t
  recorded : keepsPointers i = false → loadsPointers i = false →
    t.fip = ⟨s.seg.cs.sel, s.eip⟩ ∧ t.fop = i.fop
      ∧ ∀ a, s.access i = some a → t.fdp = (s.place i.prefixes a.mem).ptr

/-- The frame of a numeric instruction that starts its body in `u`. -/
def frameOf (s u : State) (i : Instr) : Frame := ⟨u, resultRegs s i, retaggedRegs s i, looseFlags i⟩

theorem phys_of_begun {s u : State} {i : Instr} (hb : s.Begun u i) (j : Fin 8) : u.phys j = s.phys j := by
  rw [State.phys, State.phys, hb.sw]

/-- A numeric instruction that stays in its frame has been executed, whether it stores or not. -/
theorem executed_of_frame {s u v t : State} {i : Instr} (hb : s.Begun u i) (hk : keepsPointers i = false)
    (hv : (frameOf s u i).Holds v)
    (ht : t = v.advance i ∨ ∃ bs, t = (v.store (s.storeAddrs i) bs).advance i) : Executed s t i := by
  obtain ⟨hcontrol, hfdp, hmem, hregs, htags, hsf, hflags⟩ := hv
  have hcompleted : s.CompletedNumeric (v.advance i) i := hb.completed hcontrol hfdp
  have hvmem : v.mem = s.mem := hmem.trans hb.mem
  have hregs : s.KeepsRegs v (resultRegs s i) := fun j hj =>
    (hregs j hj).trans (congrArg (fun r : Vector Ext 8 => r[j]) hb.regs)
  have htags : s.KeepsTags v (resultRegs s i ++ retaggedRegs s i) := fun j hj =>
    (htags j hj).trans (congrArg (fun r : Vector Bool 8 => r[j]) hb.empty)
  have hsf : s.sw.sf = true → v.sw.sf = true := fun h => hsf (by simpa only [frameOf, hb.sw] using h)
  have hflags : ∀ x, s.sw.flag x = true → x ∉ looseFlags i → v.sw.flag x = true := fun x h hx =>
    hflags x (by simpa only [frameOf, hb.sw] using h) hx
  have hstored : ∀ bs, s.KeepsMemory (v.store (s.storeAddrs i) bs) (s.storeAddrs i) := fun bs a ha => by
    rw [store_keepsMemory v _ bs a ha, hvmem]
  have hkept : s.KeepsMemory v (s.storeAddrs i) := fun a _ => by rw [hvmem]
  obtain ⟨⟨⟨c1, c2, c3, c4, c5, c6, c7, c8, c9, c10, -⟩, hadv⟩, hcw, hfip, hfop, hfdp⟩ := hcompleted
  rcases ht with rfl | ⟨bs, rfl⟩
  · exact ⟨hkept, hregs, htags, fun _ => hsf, fun _ => hflags, fun _ => .inl hcw, .inl c1, c2, c3, c4, c5, c6, c7, c8,
      c9, c10, hadv, fun h => absurd (hk.symm.trans h) Bool.false_ne_true, fun _ _ => ⟨hfip, hfop, hfdp⟩⟩
  · exact ⟨hstored bs, hregs, htags, fun _ => hsf, fun _ => hflags, fun _ => .inl hcw, .inl c1, c2, c3, c4, c5, c6, c7,
      c8, c9, c10, hadv, fun h => absurd (hk.symm.trans h) Bool.false_ne_true, fun _ _ => ⟨hfip, hfop, hfdp⟩⟩

/-- The instruction has been interrupted or executed. -/
def Ended (s t : State) (i : Instr) : Prop := Interrupted s t i ∨ Executed s t i

section Prelude

variable {i : Instr} {m : MemOp} {n : Nat} {s t : State}

theorem numReg_ended {body : State → State} (hmem : s.access i = none) (hk : keepsPointers i = false)
    (hb : (frameOf s (s.synced.recordReg i) i).Leads body) (h : numReg i s body = .next t) : Ended s t i := by
  rcases escReg_next h with hg | ⟨_, hgo⟩
  · exact .inl (interrupted_gated i hg)
  · exact .inr (executed_of_frame (begun_recordReg hmem) hk (hb _ frame_start) (.inl (Host.Outcome.next.inj hgo).symm))

theorem numRegP_ended {body : Nat → State → State} (hmem : s.access i = none) (hk : keepsPointers i = false)
    (hb : ∀ p, (frameOf s (s.synced.recordReg i) i).Leads (body p)) (h : numRegP i s body = .next t) : Ended s t i := by
  rcases escReg_next h with hg | ⟨_, hgo⟩
  · exact .inl (interrupted_gated i hg)
  · rcases withPrecision_cases i (s.synced.recordReg i) body with ⟨_, e⟩ | ⟨p, _, e⟩
    · cases e.symm.trans hgo
    · exact .inr (executed_of_frame (begun_recordReg hmem) hk (hb p _ frame_start)
        (.inl (Host.Outcome.next.inj (e.symm.trans hgo)).symm))

theorem numLoad_ended {body : List Byte → State → State} (hmem : s.access i = some ⟨m, false, n⟩)
    (hk : keepsPointers i = false) (hb : ∀ bs, (frameOf s (s.started .numeric i m false n) i).Leads (body bs))
    (h : numLoad i m n s body = .next t) : Ended s t i := by
  rcases escLoad_next h with hg | ⟨_, v, _, rfl⟩ | ⟨_, rfl⟩ | ⟨_, hgo⟩
  · exact .inl (interrupted_gated i hg)
  · exact .inl (interrupted_waited_takeTrap _ s v i)
  · exact .inl (interrupted_takeOverrun (by simp))
  · exact .inr (executed_of_frame (begun_started hmem) hk (hb _ _ frame_start)
      (.inl (Host.Outcome.next.inj hgo).symm))

theorem numLoadP_ended {body : List Byte → Nat → State → State} (hmem : s.access i = some ⟨m, false, n⟩)
    (hk : keepsPointers i = false) (hb : ∀ bs p, (frameOf s (s.started .numeric i m false n) i).Leads (body bs p))
    (h : numLoadP i m n s body = .next t) : Ended s t i := by
  rcases escLoad_next h with hg | ⟨_, v, _, rfl⟩ | ⟨_, rfl⟩ | ⟨_, hgo⟩
  · exact .inl (interrupted_gated i hg)
  · exact .inl (interrupted_waited_takeTrap _ s v i)
  · exact .inl (interrupted_takeOverrun (by simp))
  · rcases withPrecision_cases i (s.started .numeric i m false n)
      (body (s.readPlace (s.place i.prefixes m) n)) with ⟨_, e⟩ | ⟨p, _, e⟩
    · cases e.symm.trans hgo
    · exact .inr (executed_of_frame (begun_started hmem) hk (hb _ p _ frame_start)
        (.inl (Host.Outcome.next.inj (e.symm.trans hgo)).symm))

theorem storeAddrs_of_access (hmem : s.access i = some ⟨m, true, n⟩) :
    s.storeAddrs i = s.placeAddrs (s.place i.prefixes m) n := by
  rw [State.storeAddrs, hmem]

theorem numStore_ended {body : State → Stored} (hmem : s.access i = some ⟨m, true, n⟩)
    (hk : keepsPointers i = false)
    (hb : (frameOf s (s.started .numeric i m true n) i).Leads fun u => (body u).1)
    (h : numStore i m n s body = .next t) : Ended s t i := by
  have hv := hb _ frame_start
  simp only [frameOf] at hv
  rcases escStore_next h with hg | ⟨_, v, _, rfl⟩ | ⟨_, u, e, rfl⟩ | ⟨_, rfl⟩ | ⟨_, u, bs, e, rfl⟩
  · exact .inl (interrupted_gated i hg)
  · exact .inl (interrupted_waited_takeTrap _ s v i)
  · rw [e] at hv
    exact .inr (executed_of_frame (begun_started hmem) hk hv (.inl rfl))
  · refine .inl (interrupted_takeOverrun ?_)
    rw [storeAddrs_of_access hmem]
    exact reachable_subset s _ n
  · rw [e] at hv
    exact .inr (executed_of_frame (begun_started hmem) hk hv (.inr ⟨bs, by rw [storeAddrs_of_access hmem]⟩))

end Prelude

end Sys2Proof.Machine

namespace Sys2Proof.Machine

/-! What is kept, from the fields that say so. -/

theorem keepsMemory_of_mem {s t : State} {as : List Nat} (h : t.mem = s.mem) : s.KeepsMemory t as :=
  fun a _ => congrArg (readByte · a) h

theorem keepsRegs_of_regs {s t : State} {ks : List (Fin 8)} (h : t.regs = s.regs) : s.KeepsRegs t ks :=
  fun j _ => congrArg (fun r : Vector Ext 8 => r[j]) h

theorem keepsTags_of_empty {s t : State} {ks : List (Fin 8)} (h : t.empty = s.empty) : s.KeepsTags t ks :=
  fun j _ => congrArg (fun r : Vector Bool 8 => r[j]) h

theorem keepsMemory_of_store {s t : State} {as : List Nat} {bs : List Byte} (h : t.mem = writeBytes s.mem as bs) :
    s.KeepsMemory t as := fun a ha => by rw [h, readByte_writeBytes_other a s.mem as bs ha]

theorem flags_of_sw {s t : State}
    (h : t.sw.ie = s.sw.ie ∧ t.sw.de = s.sw.de ∧ t.sw.ze = s.sw.ze ∧ t.sw.oe = s.sw.oe ∧ t.sw.ue = s.sw.ue
      ∧ t.sw.pe = s.sw.pe) (x : Exc) : t.sw.flag x = s.sw.flag x := by
  obtain ⟨h1, h2, h3, h4, h5, h6⟩ := h
  cases x <;> assumption

theorem advanced_of_fields {s v : State} (i : Instr) (hseg : v.seg = s.seg) (hmode : v.mode = s.mode)
    (heip : v.eip = s.eip) : s.Advanced (v.advance i) i := by
  have h := advance_advanced v i
  rwa [State.Advanced, heip, show v.code32 = s.code32 by rw [State.code32, State.code32, hseg, hmode]] at h

/-! ## Processor control (R330 to R360) -/

section Control

variable {q : List Prefix} {m : MemOp} {s t : State}

/-- `u` is `s`, but for what is noted for the synchronisation of operands: the state in which an instruction starts that
does not record its pointers (R37, R474). -/
structure State.Entered (s u : State) : Prop where
  regs : u.regs = s.regs
  empty : u.empty = s.empty
  sw : u.sw = s.sw
  cw : u.cw = s.cw
  mem : u.mem = s.mem
  cpu : s.KeepsCpu u
  eip : u.eip = s.eip
  pointers : s.KeepsPointers u

theorem State.Entered.sf {s u : State} (h : s.Entered u) : u.sw.sf = s.sw.sf := congrArg StatusWord.sf h.sw

theorem entered_refl (s : State) : s.Entered s :=
  ⟨rfl, rfl, rfl, rfl, rfl, ⟨rfl, rfl, rfl, rfl, rfl, rfl, rfl, rfl, rfl, rfl, rfl⟩, rfl, rfl, rfl, rfl⟩

theorem entered_started {k : Manner} (hk : k.records = false) (i : Instr) (m : MemOp) (w : Bool) (n : Nat) (s : State) :
    s.Entered (s.started k i m w n) := by
  unfold State.started State.noted
  rw [hk]
  cases k.waits <;> cases k.notes <;> cases w <;>
    exact ⟨rfl, rfl, rfl, rfl, rfl, ⟨rfl, rfl, rfl, rfl, rfl, rfl, rfl, rfl, rfl, rfl, rfl⟩, rfl, rfl, rfl, rfl⟩

theorem escStore_ended {k : Manner} {i : Instr} {n : Nat} {body : State → Stored}
    (hmem : s.access i = some ⟨m, true, n⟩) (hk : k.records = false)
    (hb : ∀ u, s.Entered u → ∃ v bs, body u = (v, some bs) ∧
      Executed s ((v.store (s.storeAddrs i) bs).advance i) i)
    (h : escStore k i m n s body = .next t) : Ended s t i := by
  obtain ⟨v, bs, hbody, hexec⟩ := hb _ (entered_started hk i m true n s)
  rcases escStore_next h with hg | ⟨_, v, _, rfl⟩ | ⟨_, u, e, rfl⟩ | ⟨_, rfl⟩ | ⟨_, u, cs, e, rfl⟩
  · exact .inl (interrupted_gated i hg)
  · exact .inl (interrupted_waited_takeTrap _ s v i)
  · cases hbody.symm.trans e
  · refine .inl (interrupted_takeOverrun ?_)
    rw [storeAddrs_of_access hmem]
    exact reachable_subset s _ n
  · cases hbody.symm.trans e
    rw [← storeAddrs_of_access hmem]
    exact .inr hexec

theorem escLoad_ended {k : Manner} {i : Instr} {n : Nat} {body : List Byte → State → State} (hk : k.records = false)
    (hb : ∀ bs u, s.Entered u → Executed s (body bs u) i)
    (h : escLoad k i m n s (fun bs u => .next (body bs u)) = .next t) : Ended s t i := by
  rcases escLoad_next h with hg | ⟨_, v, _, rfl⟩ | ⟨_, rfl⟩ | ⟨_, hgo⟩
  · exact .inl (interrupted_gated i hg)
  · exact .inl (interrupted_waited_takeTrap _ s v i)
  · exact .inl (interrupted_takeOverrun (by simp))
  · exact .inr (Host.Outcome.next.inj hgo ▸ hb _ _ (entered_started hk i m false n s))

theorem escReg_noWait_ended {i : Instr} {body : State → State} (hb : Executed s (body s) i)
    (h : escReg .noWait i s (fun u => .next (body u)) = .next t) : Ended s t i := by
  rcases escReg_next h with hg | ⟨_, hgo⟩
  · exact .inl (interrupted_gated i hg)
  · exact .inr (Host.Outcome.next.inj hgo ▸ hb)

/-- An instruction that keeps the processor, registers and pointers has been executed if its other effects are as they
should be. -/
theorem executed_of_control {s v : State} {i : Instr} {t : State} (ht : t = v.advance i)
    (hmem : s.KeepsMemory v (s.storeAddrs i)) (hregs : v.regs = s.regs)
    (htags : s.KeepsTags v (resultRegs s i ++ retaggedRegs s i))
    (hflags : loadsFlags i = false → v.sw.sf = s.sw.sf ∧ ∀ x, v.sw.flag x = s.sw.flag x)
    (hcw : loadsControl i = false → v.cw = s.cw ∨ (∃ p m, i = .fnstenv p m) ∧ v.cw = s.cw ||| 0x3F)
    (hcpu : s.KeepsCpu v) (heip : v.eip = s.eip) (hkept : keepsPointers i = true → s.KeepsPointers v)
    (hloads : keepsPointers i = true ∨ loadsPointers i = true) : Executed s t i := by
  obtain ⟨c1, c2, c3, c4, c5, c6, c7, c8, c9, c10, -⟩ := hcpu
  subst ht
  exact ⟨hmem, keepsRegs_of_regs hregs, htags, fun h hs => (hflags h).1.trans hs,
    fun h x hx _ => ((hflags h).2 x).trans hx, hcw, .inl c1, c2, c3, c4, c5, c6, c7, c8, c9, c10,
    advanced_of_fields i c2 c3 heip, hkept, fun h1 h2 => by simp [h1, h2] at hloads⟩

theorem fninit_ended (h : execFninit q s = .next t) : Ended s t (.fninit q) :=
  escReg_noWait_ended (body := fun u => State.advance { u.initNpx with overrun := false } (.fninit q))
    ⟨keepsMemory_of_mem rfl, keepsRegs_of_regs rfl, fun j hj => absurd (List.mem_finRange j) hj, nofun, nofun, nofun,
      .inl rfl, rfl, rfl, rfl, rfl, rfl, rfl, rfl, rfl, rfl, advanced_of_fields _ rfl rfl rfl,
      fun _ => ⟨rfl, rfl, rfl⟩, nofun⟩ h

theorem fnclex_ended (h : execFnclex q s = .next t) : Ended s t (.fnclex q) :=
  escReg_noWait_ended (body := fun u => (u.drawC3210.setSw u.drawC3210.sw.clearExceptions).advance (.fnclex q))
    (executed_of_control rfl (keepsMemory_of_mem rfl) rfl (keepsTags_of_empty rfl) nofun (fun _ => .inl rfl)
      (entered_refl s).cpu rfl (fun _ => ⟨rfl, rfl, rfl⟩) (.inl rfl)) h

theorem setAx_spec (s : State) (w : Word16) :
    { (s.setAx w).gpr with eax := 0 } = { s.gpr with eax := 0 }
      ∧ (s.setAx w).gpr.eax.extractLsb' 16 16 = s.gpr.eax.extractLsb' 16 16
      ∧ (s.setAx w).gpr.get16 .eax = w := by
  refine ⟨rfl, ?_, ?_⟩
  · exact BitVec.extractLsb'_append_eq_left
  · exact BitVec.setWidth_append_eq_right

theorem fnstswAx_ended (h : execFnstswAx q s = .next t) : Ended s t (.fnstswAx q) := by
  obtain ⟨hrest, hhigh, -⟩ := setAx_spec s s.sw.toBits
  exact escReg_noWait_ended (body := fun u => (u.drawC3210.setAx u.sw.toBits).advance (.fnstswAx q))
    ⟨keepsMemory_of_mem rfl, keepsRegs_of_regs rfl, keepsTags_of_empty rfl, fun _ => id,
      fun _ x hx _ => (flags_of_sw ⟨rfl, rfl, rfl, rfl, rfl, rfl⟩ x).trans hx, fun _ => .inl rfl,
      .inr ⟨⟨q, rfl⟩, hrest, hhigh⟩, rfl, rfl, rfl, rfl, rfl, rfl, rfl, rfl, rfl, advanced_of_fields _ rfl rfl rfl,
      fun _ => ⟨rfl, rfl, rfl⟩, nofun⟩ h

theorem fldcw_ended (h : execFldcw q m s = .next t) : Ended s t (.fldcw q m) := by
  refine escLoad_ended (k := .loadControl) (n := 2)
    (body := fun bs u => (u.drawC3210.loadWords (BitVec.ofNat 16 (leNat bs)) u.drawC3210.sw).advance (.fldcw q m))
    rfl (fun bs u hu => ?_) h
  have hflags : ∀ x, (u.drawC3210.loadWords (BitVec.ofNat 16 (leNat bs)) u.drawC3210.sw).sw.flag x = s.sw.flag x :=
    fun x => by rw [← hu.sw]; exact flags_of_sw ⟨rfl, rfl, rfl, rfl, rfl, rfl⟩ x
  exact executed_of_control rfl (keepsMemory_of_mem hu.mem) hu.regs (keepsTags_of_empty hu.empty)
    (fun _ => ⟨hu.sf, hflags⟩) nofun hu.cpu hu.eip (fun _ => hu.pointers) (.inl rfl)

/-- FNSTCW and FNSTSW change nothing but the condition code and the operand. -/
theorem controlStore_executed {i : Instr} {w : Word16} (hi : controlStore s q m i w) {u : State} (hu : s.Entered u)
    (bs : List Byte) : Executed s ((u.drawC3210.store (s.storeAddrs i) bs).advance i) i := by
  have hflags : ∀ x, u.drawC3210.sw.flag x = s.sw.flag x :=
    fun x => by rw [← hu.sw]; exact flags_of_sw ⟨rfl, rfl, rfl, rfl, rfl, rfl⟩ x
  have hmem : s.KeepsMemory (u.drawC3210.store (s.storeAddrs i) bs) (s.storeAddrs i) :=
    keepsMemory_of_store (congrArg (writeBytes · _ bs) hu.mem)
  refine executed_of_control rfl hmem hu.regs (keepsTags_of_empty hu.empty)
    (fun _ => ⟨hu.sf, hflags⟩) (fun _ => .inl hu.cw) hu.cpu hu.eip (fun _ => hu.pointers) ?_
  rcases hi with ⟨rfl, _⟩ | ⟨rfl, _⟩
  · exact .inl rfl
  · exact .inl rfl

theorem fnstcw_ended (h : execFnstcw q m s = .next t) : Ended s t (.fnstcw q m) :=
  escStore_ended (k := .noWait) (n := 2) rfl rfl
    (fun _ hu => ⟨_, _, rfl, controlStore_executed (.inl ⟨rfl, rfl⟩) hu _⟩) h

theorem fnstswM16_ended (h : execFnstswM16 q m s = .next t) : Ended s t (.fnstswM16 q m) :=
  escStore_ended (k := .noWait) (n := 2) rfl rfl
    (fun _ hu => ⟨_, _, rfl, controlStore_executed (.inr ⟨rfl, rfl⟩) hu _⟩) h

theorem fnstenv_ended (h : execFnstenv q m s = .next t) : Ended s t (.fnstenv q m) := by
  refine escStore_ended (k := .saveImage) (n := (s.imageFormat q).envSize) rfl rfl (fun u hu => ⟨_, _, rfl, ?_⟩) h
  have hflags : ∀ x, u.drew.drawC3210.maskAll.sw.flag x = s.sw.flag x :=
    fun x => by rw [← hu.sw]; exact flags_of_sw ⟨rfl, rfl, rfl, rfl, rfl, rfl⟩ x
  exact executed_of_control rfl (keepsMemory_of_store (congrArg (writeBytes · _ _) hu.mem)) hu.regs
    (keepsTags_of_empty hu.empty) (fun _ => ⟨hu.sf, hflags⟩)
    (fun _ => .inr ⟨⟨q, m, rfl⟩, congrArg (· ||| 0x3F) hu.cw⟩) hu.cpu hu.eip (fun _ => hu.pointers) (.inl rfl)

theorem fnsave_ended (h : execFnsave q m s = .next t) : Ended s t (.fnsave q m) := by
  refine escStore_ended (k := .saveImage) (n := (s.imageFormat q).stateSize) rfl rfl (fun u hu => ⟨_, _, rfl, ?_⟩) h
  exact executed_of_control rfl (keepsMemory_of_store (congrArg (writeBytes · _ _) hu.mem)) hu.regs
    (fun j hj => absurd (List.mem_finRange j) hj) nofun nofun hu.cpu hu.eip (fun _ => hu.pointers) (.inl rfl)

/-- An environment loaded changes nothing of the processor, no register and no memory (R76). -/
theorem loadEnv_keeps (s : State) (f : ImageFormat) (bs : List Byte) :
    s.KeepsCpu (s.loadEnv f bs) ∧ (s.loadEnv f bs).eip = s.eip ∧ (s.loadEnv f bs).regs = s.regs
      ∧ (s.loadEnv f bs).mem = s.mem := by
  cases f <;> exact ⟨⟨rfl, rfl, rfl, rfl, rfl, rfl, rfl, rfl, rfl, rfl, rfl⟩, rfl, rfl, rfl⟩

theorem keepsCpu_trans {s t u : State} (h1 : s.KeepsCpu t) (h2 : t.KeepsCpu u) : s.KeepsCpu u := by
  obtain ⟨c1, c2, c3, c4, c5, c6, c7, c8, c9, c10, c11⟩ := h1
  obtain ⟨d1, d2, d3, d4, d5, d6, d7, d8, d9, d10, d11⟩ := h2
  exact ⟨d1.trans c1, d2.trans c2, d3.trans c3, d4.trans c4, d5.trans c5, d6.trans c6, d7.trans c7, d8.trans c8,
    d9.trans c9, d10.trans c10, d11.trans c11⟩

theorem fldenv_ended (h : execFldenv q m s = .next t) : Ended s t (.fldenv q m) := by
  refine escLoad_ended (k := .restore) (body := fun bs u => (u.loadEnv (u.imageFormat q) bs).advance (.fldenv q m))
    rfl (fun bs u hu => ?_) h
  obtain ⟨hcpu, heip, hregs, hmem⟩ := loadEnv_keeps u (u.imageFormat q) bs
  exact executed_of_control rfl (keepsMemory_of_mem (hmem.trans hu.mem)) (hregs.trans hu.regs)
    (fun j hj => absurd (List.mem_finRange j) hj) nofun nofun (keepsCpu_trans hu.cpu hcpu) (heip.trans hu.eip) nofun
    (.inr rfl)

theorem frstor_ended (h : execFrstor q m s = .next t) : Ended s t (.frstor q m) := by
  refine escLoad_ended (k := .restore) (body := fun bs u =>
    ((u.loadEnv (u.imageFormat q) bs).loadStack (bs.drop (u.imageFormat q).envSize)).advance (.frstor q m))
    rfl (fun bs u hu => ?_) h
  obtain ⟨hcpu, heip, -, hmem⟩ := loadEnv_keeps u (u.imageFormat q) bs
  obtain ⟨c1, c2, c3, c4, c5, c6, c7, c8, c9, c10, -⟩ := keepsCpu_trans hu.cpu hcpu
  exact ⟨keepsMemory_of_mem (hmem.trans hu.mem), fun j hj => absurd (List.mem_finRange j) hj,
    fun j hj => absurd (List.mem_append_left _ (List.mem_finRange j)) hj, nofun, nofun, nofun, .inl c1, c2, c3, c4, c5,
    c6, c7, c8, c9, c10, advanced_of_fields _ c2 c3 (heip.trans hu.eip), nofun, nofun⟩

theorem wait_ended (h : execWait q s = .next t) : Ended s t (.wait q) := by
  unfold execWait at h
  split at h
  · exact .inl (Host.Outcome.next.inj h ▸ interrupted_takeTrap s _ _)
  split at h
  · exact .inl (Host.Outcome.next.inj h ▸ interrupted_synced_takeTrap s _ _)
  · exact .inr (Host.Outcome.next.inj h ▸ executed_of_control (v := s.synced) rfl (keepsMemory_of_mem rfl)
      rfl (keepsTags_of_empty rfl) (fun _ => ⟨rfl, fun _ => rfl⟩) (fun _ => .inl rfl) (entered_refl s).cpu rfl
      (fun _ => ⟨rfl, rfl, rfl⟩) (.inl rfl))

theorem reservedEsc_ended {i : Instr} (h : reservedEsc s = .next t) : Ended s t i := by
  rcases escStart_next h with ⟨_, rfl⟩ | ⟨_, _, rfl⟩ | ⟨_, hf⟩
  · exact .inl (interrupted_takeTrap s _ i)
  · exact .inl (interrupted_synced_takeTrap s _ i)
  · cases hf

end Control

/-! ## Every instruction -/

theorem exec_ended {i : Instr} {s t : State} (h : exec i s = .next t) : Ended s t i := by
  have mem0 {a : Fin 8} {l : List (Fin 8)} : a ∈ a :: l := List.mem_cons_self
  have mem1 {a b : Fin 8} {l : List (Fin 8)} : b ∈ a :: b :: l := List.mem_cons_of_mem _ List.mem_cons_self
  have pop {r a : Fin 8} : a ∈ [r] ++ [a] := List.mem_append_right _ List.mem_cons_self
  unfold exec at h
  cases i with
  | faddM32 | fmulM32 | fsubM32 | fsubrM32 | fdivM32 | fdivrM32
  | faddM64 | fmulM64 | fsubM64 | fsubrM64 | fdivM64 | fdivrM64 =>
    exact numLoadP_ended rfl rfl (arithReal_leads mem0) h
  | fiaddI16 | fimulI16 | fisubI16 | fisubrI16 | fidivI16 | fidivrI16
  | fiaddI32 | fimulI32 | fisubI32 | fisubrI32 | fidivI32 | fidivrI32 =>
    exact numLoadP_ended rfl rfl (arithInt_leads mem0) h
  | faddStSti | fmulStSti | fsubStSti | fsubrStSti | fdivStSti | fdivrStSti
  | faddStiSt | fmulStiSt | fsubStiSt | fsubrStiSt | fdivStiSt | fdivrStiSt =>
    exact numRegP_ended rfl rfl (arithRegs_leads mem0 frame_leads_id) h
  | faddp | fmulp | fsubp | fsubrp | fdivp | fdivrp =>
    exact numRegP_ended rfl rfl (arithRegs_leads mem0 (frame_leads_pop pop)) h
  | fsqrt => exact numRegP_ended rfl rfl (squareRoot_leads mem0) h
  | frndint => exact numReg_ended rfl rfl (roundToInteger_leads mem0) h
  | fxtract => exact numReg_ended rfl rfl (extract_leads mem0 mem1) h
  | fabs | fchs => exact numReg_ended rfl rfl (changeSign_leads mem0) h
  | fscale => exact numReg_ended rfl rfl (scaleBy_leads mem0) h
  | fprem | fprem1 => exact numReg_ended rfl rfl (remainder_leads mem0) h
  | fcomM32 | fcomM64 => exact numLoad_ended rfl rfl (compareReal_leads frame_leads_id) h
  | fcompM32 | fcompM64 => exact numLoad_ended rfl rfl (compareReal_leads (frame_leads_pop mem0)) h
  | ficomI16 | ficomI32 => exact numLoad_ended rfl rfl (compareInt_leads frame_leads_id) h
  | ficompI16 | ficompI32 => exact numLoad_ended rfl rfl (compareInt_leads (frame_leads_pop mem0)) h
  | fcomSti | fucomSti => exact numReg_ended rfl rfl (compareReg_leads frame_leads_id) h
  | fcompSti | fucompSti => exact numReg_ended rfl rfl (compareReg_leads (frame_leads_pop mem0)) h
  | fcompp | fucompp => exact numReg_ended rfl rfl (compareReg_leads (frame_leads_pop2 mem0 mem1)) h
  | ftst => exact numReg_ended rfl rfl (compareMem_leads frame_leads_id) h
  | fxam => exact numReg_ended rfl rfl examine_leads h
  | fldM32 | fldM64 => exact numLoad_ended rfl rfl (fun _ => loadReal_leads mem0) h
  | fldM80 | fildI16 | fildI32 | fildI64 => exact numLoad_ended rfl rfl (fun _ => loadPlain_leads mem0) h
  | fbld => exact numLoad_ended rfl rfl (fun _ => loadBcd_leads mem0) h
  | fldSti => exact numReg_ended rfl rfl (loadSt_leads mem0) h
  | fldz | fld1 => exact numReg_ended rfl rfl (loadPlain_leads mem0) h
  | fldpi | fldl2t | fldl2e | fldlg2 | fldln2 => exact numReg_ended rfl rfl (loadConst_leads mem0) h
  | fstSti => exact numReg_ended rfl rfl (storeSt_leads mem0 frame_leads_id) h
  | fstpSti => exact numReg_ended rfl rfl (storeSt_leads mem0 (frame_leads_pop pop)) h
  | fxch => exact numReg_ended rfl rfl (exchange_leads mem0 mem1) h
  | fstM32 | fstM64 => exact numStore_ended rfl rfl (storeReal_leads frame_leads_id) h
  | fstpM32 | fstpM64 => exact numStore_ended rfl rfl (storeReal_leads (frame_leads_pop mem0)) h
  | fstpM80 => exact numStore_ended rfl rfl (storeExt_leads (frame_leads_pop mem0)) h
  | fistI16 | fistI32 => exact numStore_ended rfl rfl (storeInt_leads frame_leads_id) h
  | fistpI16 | fistpI32 | fistpI64 => exact numStore_ended rfl rfl (storeInt_leads (frame_leads_pop mem0)) h
  | fbstp => exact numStore_ended rfl rfl (storeBcd_leads (frame_leads_pop mem0)) h
  | fsin => exact numReg_ended rfl rfl (sine_leads mem0) h
  | fcos => exact numReg_ended rfl rfl (cosine_leads mem0) h
  | fsincos => exact numReg_ended rfl rfl (sineCosine_leads mem0 mem1) h
  | fptan => exact numReg_ended rfl rfl (tangent_leads mem0 mem1) h
  | fpatan => exact numReg_ended rfl rfl (arctangent_leads mem0 (frame_leads_pop pop)) h
  | f2xm1 => exact numReg_ended rfl rfl (exponential_leads mem0 List.mem_cons_self) h
  | fyl2x => exact numReg_ended rfl rfl (logarithm_leads mem0 (frame_leads_pop pop)) h
  | fyl2xp1 => exact numReg_ended rfl rfl (logarithmPlusOne_leads mem0 (frame_leads_pop pop) List.mem_cons_self) h
  | fninit => exact fninit_ended h
  | fldcw => exact fldcw_ended h
  | fnstcw => exact fnstcw_ended h
  | fnstswM16 => exact fnstswM16_ended h
  | fnstswAx => exact fnstswAx_ended h
  | fnclex => exact fnclex_ended h
  | fnstenv => exact fnstenv_ended h
  | fldenv => exact fldenv_ended h
  | fnsave => exact fnsave_ended h
  | frstor => exact frstor_ended h
  | fincstp | fdecstp => exact numReg_ended rfl rfl (fun _ hu => hu.drawC320ClearC1.1.setTop) h
  | ffree => exact numReg_ended rfl rfl (fun u hu => hu.1.freeReg (by rw [hu.phys]; exact mem0)) h
  | fnop | feni | fdisi | fsetpm => exact numReg_ended rfl rfl frame_leads_id h
  | wait => exact wait_ended h
  | reservedD9Mem1 | reservedD9D1 | reservedD9D2 | reservedD9D4 | reservedD9D8 | reservedD9E2 | reservedD9E3
  | reservedD9E6 | reservedD9E7 | reservedD9EF | reservedDAC0 | reservedDAE0 | reservedDAE8 | reservedDAEA
  | reservedDAEC | reservedDAF0 | reservedDBMem1 | reservedDBMem4 | reservedDBMem6 | reservedDBC0 | reservedDBE5
  | reservedDBE6 | reservedDBE8 | reservedDBF0 | reservedDCD0 | reservedDDMem1 | reservedDDMem5 | reservedDDC8
  | reservedDDF0 | reservedDED0 | reservedDED8 | reservedDEDA | reservedDEDC | reservedDFMem1 | reservedDFC0
  | reservedDFE1 | reservedDFE2 | reservedDFE4 | reservedDFE8 | reservedDFF0 =>
    exact reservedEsc_ended h

end Sys2Proof.Machine

namespace Sys2Proof.Machine

/-! ## The six statements -/

/-- Settles O13. -/
theorem onlyTheStoredOperandChanges : Obligations.OnlyTheStoredOperandChanges := by
  intro i s t h
  rcases exec_ended h with hi | he
  · exact hi.mem
  · exact he.mem

/-- Settles O14: an interrupt that is not interrupt 9 leaves registers and tags alone. -/
theorem onlyResultRegistersChange : Obligations.OnlyResultRegistersChange := by
  intro i s t h hover
  rcases exec_ended h with hi | he
  · obtain ⟨hregs, hempty, -⟩ := hi.numeric hover
    exact ⟨keepsRegs_of_regs hregs, keepsTags_of_empty hempty⟩
  · exact ⟨he.regs, he.tags⟩

/-- Settles O15. -/
theorem flagsAreSticky : Obligations.FlagsAreSticky := by
  intro i s t h hover hi
  have hloads : loadsFlags i = false := by
    cases i <;> first | rfl | exact absurd hi id
  rcases exec_ended h with hint | he
  · obtain ⟨-, -, hsw, -⟩ := hint.numeric hover
    rw [hsw]
    exact ⟨id, fun _ hx _ => hx⟩
  · refine ⟨he.sf hloads, fun x hx hpe => he.flags hloads x hx ?_⟩
    cases i
    case f2xm1 => simpa [looseFlags] using hpe
    case fyl2xp1 => simpa [looseFlags] using hpe
    all_goals exact List.not_mem_nil

/-- Settles O16: of the instructions that do not load the control word only FNSTENV changes it. -/
theorem onlyControlInstructionsChangeTheControlWord : Obligations.OnlyControlInstructionsChangeTheControlWord := by
  intro i s t h hover
  have hcw : loadsControl i = false → t.cw = s.cw ∨ (∃ p m, i = .fnstenv p m) ∧ t.cw = s.cw ||| 0x3F := by
    rcases exec_ended h with hint | he
    · obtain ⟨-, -, -, hcw, -⟩ := hint.numeric hover
      exact fun _ => .inl hcw
    · exact he.cw
  cases i
  case fldcw => trivial
  case fldenv => trivial
  case frstor => trivial
  case fninit => trivial
  case fnsave => trivial
  case fnstenv =>
    exact (hcw rfl).imp_right And.right
  all_goals
    refine (hcw rfl).resolve_right fun ⟨⟨p, m, hi⟩, _⟩ => ?_
    cases hi

/-- Settles O17: an interrupt adds a return link, so without one the instruction has been executed. -/
theorem processorStateIsKept : Obligations.ProcessorStateIsKept := by
  intro i s t h
  have hgpr : t.gpr = s.gpr ∨ (∃ p, i = .fnstswAx p) ∧ { t.gpr with eax := 0 } = { s.gpr with eax := 0 }
      ∧ t.gpr.eax.extractLsb' 16 16 = s.gpr.eax.extractLsb' 16 16 := by
    rcases exec_ended h with hint | he
    · exact .inl hint.gpr
    · exact he.gpr
  refine ⟨?_, ?_⟩
  · cases i
    case fnstswAx =>
      rcases hgpr with hgpr | ⟨-, hgpr⟩
      · rw [hgpr]
        exact ⟨rfl, rfl⟩
      · exact hgpr
    all_goals
      refine hgpr.resolve_right fun ⟨⟨p, hi⟩, _⟩ => ?_
      cases hi
  · rcases exec_ended h with hint | he
    · exact ⟨hint.mode, hint.cr0, hint.gates, hint.denied, hint.params, hint.inputs, fun hl => absurd hl hint.links⟩
    · exact ⟨he.mode, he.cr0, he.gates, he.denied, he.params, he.inputs, fun _ => ⟨he.seg, he.cpuFlags, he.advanced⟩⟩

/-- Settles O18. -/
theorem exceptionPointersAreRecorded : Obligations.ExceptionPointersAreRecorded := by
  intro i s t h hover
  rcases exec_ended h with hint | he
  · obtain ⟨-, -, -, -, hkept⟩ := hint.numeric hover
    exact ⟨fun _ => hkept, fun _ => hkept, fun hl => absurd hl hint.links⟩
  · refine ⟨he.kept, fun hl => absurd he.links hl, fun _ hk hi => he.recorded hk ?_⟩
    cases i <;> first | rfl | exact absurd hi id

end Sys2Proof.Machine

/-! # The tests before an instruction (O7, O8, O12) and the ways its operand can be denied (O10, O11)

Every ESC instruction goes through `escStart`, and every one with a memory operand through `escMem`, whatever it does
afterwards; what the tests find is then said once for all of them. -/

namespace Sys2Proof.Machine

/-! ## How an instruction starts (R200 (a), R331, R434) -/

/-- How an instruction treats its memory operand: it reads it, or it may store to it, and always does if it is a no-wait
one. -/
inductive Accessed (i : Instr) (s : State) (r : Result) (k : Manner) (a : Access) : Prop
  | load (hwrite : a.write = false) (body : List Byte → State → Result)
      (h : escLoad k i a.mem a.size s body = r)
  | store (hwrite : a.write = true) (body : State → Stored) (h : escStore k i a.mem a.size s body = r)
      (hstores : noWait i = true → ∀ u, ∃ t bs, body u = (t, some bs))

section

variable {i : Instr} {s : State} {r : Result} {m : MemOp} {n : Nat}

theorem accessed_of_numLoad {body : List Byte → State → State} (h : numLoad i m n s body = r) :
    Accessed i s r .numeric ⟨m, false, n⟩ := .load rfl _ h

theorem accessed_of_numLoadP {body : List Byte → Nat → State → State} (h : numLoadP i m n s body = r) :
    Accessed i s r .numeric ⟨m, false, n⟩ := .load rfl _ h

theorem accessed_of_numStore {body : State → Stored} (h : numStore i m n s body = r) (hw : noWait i = false) :
    Accessed i s r .numeric ⟨m, true, n⟩ := .store rfl _ h (by simp [hw])

end

theorem exec_access {i : Instr} {s : State} {r : Result} {a : Access} (hr : exec i s = r) (h : s.access i = some a) :
    ∃ k : Manner, k.waits = !noWait i ∧ Accessed i s r k a := by
  unfold exec at hr
  cases i with
  | faddM32 _ _ | fmulM32 _ _ | fsubM32 _ _ | fsubrM32 _ _ | fdivM32 _ _ | fdivrM32 _ _ | faddM64 _ _
  | fmulM64 _ _ | fsubM64 _ _ | fsubrM64 _ _ | fdivM64 _ _ | fdivrM64 _ _ | fiaddI32 _ _ | fimulI32 _ _
  | fisubI32 _ _ | fisubrI32 _ _ | fidivI32 _ _ | fidivrI32 _ _ | fiaddI16 _ _ | fimulI16 _ _ | fisubI16 _ _
  | fisubrI16 _ _ | fidivI16 _ _ | fidivrI16 _ _ =>
    cases h
    exact ⟨.numeric, rfl, accessed_of_numLoadP hr⟩
  | fcomM32 _ _ | fcompM32 _ _ | fcomM64 _ _ | fcompM64 _ _ | ficomI32 _ _ | ficompI32 _ _ | ficomI16 _ _
  | ficompI16 _ _ | fldM32 _ _ | fldM64 _ _ | fldM80 _ _ | fildI16 _ _ | fildI32 _ _ | fildI64 _ _ | fbld _ _ =>
    cases h
    exact ⟨.numeric, rfl, accessed_of_numLoad hr⟩
  | fstM32 _ _ | fstpM32 _ _ | fistI32 _ _ | fistpI32 _ _ | fstM64 _ _ | fstpM64 _ _ | fistpI64 _ _
  | fistI16 _ _ | fistpI16 _ _ | fstpM80 _ _ | fbstp _ _ =>
    cases h
    exact ⟨.numeric, rfl, accessed_of_numStore hr rfl⟩
  | fldcw _ _ =>
    cases h
    exact ⟨.loadControl, rfl, .load rfl _ hr⟩
  | fldenv _ _ | frstor _ _ =>
    cases h
    exact ⟨.restore, rfl, .load rfl _ hr⟩
  | fnstcw _ _ | fnstswM16 _ _ =>
    cases h
    exact ⟨.noWait, rfl, .store rfl _ hr fun _ _ => ⟨_, _, rfl⟩⟩
  | fnstenv _ _ | fnsave _ _ =>
    cases h
    exact ⟨.saveImage, rfl, .store rfl _ hr fun _ _ => ⟨_, _, rfl⟩⟩
  | _ => cases h

theorem exec_of_reserved {i : Instr} (h : reserved i = true) (s : State) : exec i s = reservedEsc s := by
  cases i <;> cases h <;> rfl

/-- An instruction without a memory operand. -/
def RegisterForm (i : Instr) (s : State) (r : Result) (k : Manner) : Prop := ∃ body, escReg k i s body = r

theorem registerForm_of_numReg {i : Instr} {s : State} {r : Result} {body : State → State} (h : numReg i s body = r) :
    RegisterForm i s r .numeric := ⟨_, h⟩

theorem registerForm_of_numRegP {i : Instr} {s : State} {r : Result} {body : Nat → State → State}
    (h : numRegP i s body = r) : RegisterForm i s r .numeric := ⟨_, h⟩

/-- The other instructions, but for the reserved encodings and WAIT, have no memory operand. -/
theorem exec_register {i : Instr} {s : State} {r : Result} (hr : exec i s = r)
    (h : (s.access i).isNone && !reserved i && i.form != .wait) :
    ∃ k : Manner, k.waits = !noWait i ∧ RegisterForm i s r k := by
  unfold exec at hr
  cases i with
  | fninit _ | fnclex _ | fnstswAx _ => exact ⟨.noWait, rfl, _, hr⟩
  | faddStSti _ _ | fmulStSti _ _ | fsubStSti _ _ | fsubrStSti _ _ | fdivStSti _ _ | fdivrStSti _ _ | fsqrt _
  | faddStiSt _ _ | fmulStiSt _ _ | fsubrStiSt _ _ | fsubStiSt _ _ | fdivrStiSt _ _ | fdivStiSt _ _ | faddp _ _
  | fmulp _ _ | fsubrp _ _ | fsubp _ _ | fdivrp _ _ | fdivp _ _ =>
    exact ⟨.numeric, rfl, registerForm_of_numRegP hr⟩
  | fcomSti _ _ | fcompSti _ _ | fldSti _ _ | fxch _ _ | fnop _ | fchs _ | fabs _ | ftst _ | fxam _ | fld1 _
  | fldl2t _ | fldl2e _ | fldpi _ | fldlg2 _ | fldln2 _ | fldz _ | f2xm1 _ | fyl2x _ | fptan _ | fpatan _
  | fxtract _ | fprem1 _ | fdecstp _ | fincstp _ | fprem _ | fyl2xp1 _ | fsincos _ | frndint _ | fscale _
  | fsin _ | fcos _ | fucompp _ | feni _ | fdisi _ | fsetpm _ | ffree _ _ | fstSti _ _ | fstpSti _ _
  | fucomSti _ _ | fucompSti _ _ | fcompp _ =>
    exact ⟨.numeric, rfl, registerForm_of_numReg hr⟩
  | _ => cases h

theorem noWait_of_reserved {i : Instr} (h : reserved i = true) : noWait i = false := by
  cases i <;> cases h <;> rfl

/-- Every instruction but WAIT starts with the tests of an ESC instruction. -/
theorem exec_escStart {i : Instr} (h : i.form ≠ .wait) (s : State) :
    ∃ k : Manner, k.waits = !noWait i ∧ ∃ go, exec i s = escStart k s go := by
  cases ha : s.access i with
  | some a =>
    obtain ⟨k, hwaits, hacc⟩ := exec_access rfl ha
    cases hacc with
    | load _ body h => exact ⟨k, hwaits, _, h.symm.trans (by unfold escLoad escMem; rfl)⟩
    | store _ body h => exact ⟨k, hwaits, _, h.symm.trans (by unfold escStore escMem; rfl)⟩
  | none =>
    cases hr : reserved i with
    | true => exact ⟨.numeric, by rw [noWait_of_reserved hr]; rfl, _, exec_of_reserved hr s⟩
    | false =>
      obtain ⟨k, hwaits, body, hreg⟩ := exec_register (i := i) (s := s) rfl (by simp [ha, hr, h])
      exact ⟨k, hwaits, _, hreg.symm⟩

/-! ## The tests of CR0 and ERROR# (R425, R430, R434) -/

theorem exec_of_form_wait {i : Instr} (h : i.form = .wait) (s : State) : ∃ p, exec i s = execWait p s := by
  cases i with
  | wait p => exact ⟨p, rfl⟩
  | _ => cases h

theorem escStart_protocol {k : Manner} {s : State} (hem : s.cr0.em = false) (hts : s.cr0.ts = false)
    (het : s.cr0.et = false) (go : State → Result) : escStart k s go = .refused .protocol80287 := by
  simp [escStart, hem, hts, het]

/-- Settles O7: the tests come first, whatever the instruction is. -/
theorem escPassesTheGatesOfCrZero : Obligations.EscPassesTheGatesOfCrZero := by
  intro i s
  refine ⟨fun hi h7 => ?_, fun hi hmp hts => ?_, fun hi hem hts het => ?_⟩
  · obtain ⟨k, -, go, hgo⟩ := exec_escStart hi s
    exact hgo.trans (escStart_notAvailable h7 go)
  · obtain ⟨p, hp⟩ := exec_of_form_wait hi s
    rw [hp, execWait, hmp, hts]
    rfl
  · obtain ⟨k, -, go, hgo⟩ := exec_escStart hi s
    exact hgo.trans (escStart_protocol hem hts het go)

/-- Settles O8: a manner that tests ERROR# is that of every ESC instruction but the seven no-wait ones. -/
theorem pendingErrorTakesInterruptSixteen : Obligations.PendingErrorTakesInterruptSixteen := by
  intro i s hes
  refine ⟨fun hi hwait hem hts het => ?_, fun hi h7 => ?_⟩
  · obtain ⟨k, hwaits, go, hgo⟩ := exec_escStart hi s
    rw [hwait] at hwaits
    exact hgo.trans (escStart_numericError hem hts het hwaits hes go)
  · obtain ⟨p, hp⟩ := exec_of_form_wait hi s
    rw [hp, execWait, h7, hes]
    rfl

/-- Settles O12: past the tests a reserved encoding is a fault. -/
theorem reservedEncodingFaults : Obligations.ReservedEncodingFaults := by
  intro i s hi
  rw [exec_of_reserved hi, reservedEsc]
  exact ⟨fun hr => escStart_of_ready (k := .numeric) hr _, fun h7 => escStart_notAvailable h7 _⟩

/-! ## Operands that cannot be reached (R431 to R433) -/

theorem escMem_denied {k : Manner} {i : Instr} {m : MemOp} {write : Bool} {n : Nat} {s : State} {v : Trap}
    (h : s.Ready k.waits) (hf : s.firstFault (s.place i.prefixes m) write n = some v) (go : Place → State → Result) :
    escMem k i m write n s go = .next ((s.waited k).takeTrap v) := by
  rw [escMem, escStart_of_ready h]
  cases hk : k.waits <;> simp [State.waited, hk, hf]

/-- Settles O10: the check of the beginning of an operand comes before the pointers are recorded. -/
theorem deniedFirstWordTrapsUnexecuted : Obligations.DeniedFirstWordTrapsUnexecuted := by
  intro i s a v ha hr hf
  obtain ⟨k, hwaits, hacc⟩ := exec_access rfl ha
  have hr : s.Ready k.waits := hwaits ▸ hr
  have hexec : exec i s = .next ((s.waited k).takeTrap v) := by
    cases hacc with
    | load hw body h => rw [← h, escLoad, escMem_denied hr (hw ▸ hf)]
    | store hw body h => rw [← h, escStore, escMem_denied hr (hw ▸ hf)]
  have hv : v = .generalProtection ∨ v = .pageFault := by
    rcases firstFault_cases s (s.place i.prefixes a.mem) a.write a.size with ⟨e, -⟩ | ⟨e, -⟩ | ⟨e, -⟩ <;>
      rw [hf] at e <;> cases e
    · exact .inl rfl
    · exact .inr rfl
  refine ⟨_, hexec, hv, ?_⟩
  unfold State.waited
  cases k.waits <;> exact ⟨rfl, rfl, rfl, rfl, ⟨rfl, rfl, rfl⟩, rfl, rfl, rfl, _, rfl, rfl, rfl, rfl⟩

/-- Settles O11: a body that is cut short, or always stores, ends in interrupt 9. -/
theorem deniedLaterPartTakesInterruptNine : Obligations.DeniedLaterPartTakesInterruptNine := by
  intro i s m n
  have spec : ∀ (k : Manner) (w : Bool) (as : List Nat), let t := (s.started k i m w n).takeOverrun as
      s.KeepsMemory t as ∧ t.overrun = true ∧ t.seg.cs = s.gates.segmentOverrun.cs
        ∧ t.eip = s.gates.segmentOverrun.eip ∧ ∃ l, t.links = l :: s.links ∧ l.trap = .segmentOverrun := by
    intro k w as t
    obtain ⟨⟨-, -, -, -, -, hgates, hlinks, -⟩, hmem⟩ := started_keeps k i m w n s
    obtain ⟨h1, h2, h3, h4, h5, -⟩ := takeOverrun_spec (s.started k i m w n) as
    rw [hgates] at h3 h4
    rw [hlinks] at h5
    exact ⟨fun a ha => (h2 a ha).trans (by rw [hmem]), h1, h3, h4, h5⟩
  refine ⟨fun ha hr hf hl => ?_, fun ha hnw hr hf hl => ?_⟩
  · obtain ⟨k, hwaits, hacc⟩ := exec_access rfl ha
    cases hacc with
    | store hw => cases hw
    | load _ body h =>
      have hready : s.Ready k.waits := by
        obtain ⟨hem, hts, het, hes⟩ := hr
        exact ⟨hem, hts, het, fun _ => hes rfl⟩
      obtain ⟨e, -⟩ := started_checks k i m false n s
      refine ⟨(s.started k i m false n).takeOverrun [], ?_, (started_keeps k i m false n s).2, (spec k false []).2⟩
      rw [← h, escLoad, escMem_of_ready i m false n hready hf]
      exact if_pos ((e _ _ _).trans hl)
  · obtain ⟨k, hwaits, hacc⟩ := exec_access rfl ha
    cases hacc with
    | load hw => cases hw
    | store _ body h hstores =>
      have hready : s.Ready k.waits := by rw [hwaits, hnw]; exact hr
      obtain ⟨e, e1, -⟩ := started_checks k i m true n s
      obtain ⟨t, bs, hbody⟩ := hstores hnw (s.started k i m true n)
      refine ⟨_, ?_, spec k true (s.reachable (s.place i.prefixes m) n)⟩
      rw [← h, escStore, escMem_of_ready i m true n hready hf]
      simp only [hbody, e, e1, hl, if_true]

end Sys2Proof.Machine

/-! # Processor control, interrupts and the step (O4, O5, O9, O32, O53, O54, O55, O60) -/

namespace Sys2Proof.Machine

/-! ## The step, RESET and interrupts (R40, R44, R425, R440) -/

/-- Settles O4: where no act is due a step is `runNext`, which executes what it fetches. -/
theorem stepExecutesTheDecodedInstruction : Obligations.StepExecutesTheDecodedInstruction := by
  intro s i rest hno hfetch _ hstored
  refine ⟨?_, rfl, fun h => if_neg (by simpa [State.dropInput] using h)⟩
  rcases step_cases s with ⟨e, l, h, -⟩ | ⟨-, h⟩
  · exact absurd h (hno e l)
  · rw [h, runNext, hfetch]
    exact if_neg (by simp [hstored])

/-- Settles O5: the initial state is a closed term. -/
theorem resetIsSoundAndAsTheSpecSays : Obligations.ResetIsSoundAndAsTheSpecSays :=
  ⟨rfl, rfl, tagWord_of_all_empty (by decide), rfl, rfl, rfl, rfl, rfl, rfl⟩

/-- Settles O9: the link that `takeTrap` keeps is the one that IRET takes off. -/
theorem interruptEntryAndReturn : Obligations.InterruptEntryAndReturn := fun _ _ _ =>
  ⟨rfl, rfl, rfl, ⟨_, rfl, rfl, rfl, rfl, rfl⟩, rfl, rfl, rfl, rfl, ⟨rfl, rfl, rfl⟩, rfl, rfl, rfl, rfl⟩

/-! ## PC = 01B (R25, U2) -/

section ReservedPrecision

variable {i : Instr} {s : State} {r : Result}

theorem numRegP_reserved {body : Nat → State → State} (hpc : pcBits s.cw = none) (hr : s.Ready true)
    (h : numRegP i s body = r) : r = .fault .reservedPrecision := by
  rw [← h]
  refine (escReg_of_ready (k := .numeric) i hr _).trans ?_
  show withPrecision i (s.synced.recordReg i) body = _
  rw [withPrecision, show (s.synced.recordReg i).cw = s.cw from rfl, hpc]

theorem numLoadP_reserved {m : MemOp} {n : Nat} {body : List Byte → Nat → State → State} (hpc : pcBits s.cw = none)
    (hr : s.Ready true) (hacc : s.access i = some ⟨m, false, n⟩) (hop : s.OperandReachable i)
    (h : numLoadP i m n s body = r) : r = .fault .reservedPrecision := by
  rw [← h]
  refine (escLoad_of_ready (k := .numeric) i m n hr (hop _ hacc) _).trans ?_
  rw [withPrecision, (begun_started hacc).cw, hpc]

end ReservedPrecision

/-- Settles O32: `pcBits` gives no precision, and the prelude lets the instruction through. -/
theorem reservedPrecisionFaults : Obligations.ReservedPrecisionFaults := by
  intro i s hcw hr hop hi
  have hpc : pcBits s.cw = none := by rw [pcBits, hcw]; rfl
  generalize hexec : exec i s = r
  unfold exec at hexec
  cases i with
  | faddStSti | fmulStSti | fsubStSti | fsubrStSti | fdivStSti | fdivrStSti
  | faddStiSt | fmulStiSt | fsubStiSt | fsubrStiSt | fdivStiSt | fdivrStiSt
  | faddp | fmulp | fsubp | fsubrp | fdivp | fdivrp | fsqrt => exact numRegP_reserved hpc hr hexec
  | faddM32 | fmulM32 | fsubM32 | fsubrM32 | fdivM32 | fdivrM32
  | faddM64 | fmulM64 | fsubM64 | fsubrM64 | fdivM64 | fdivrM64
  | fiaddI16 | fimulI16 | fisubI16 | fisubrI16 | fidivI16 | fidivrI16
  | fiaddI32 | fimulI32 | fisubI32 | fisubrI32 | fidivI32 | fidivrI32 => exact numLoadP_reserved hpc hr rfl hop hexec
  | _ => rcases hi with h | h | ⟨p, h⟩ <;> cases h

/-! ## Bytes stored and read back (R50) -/

theorem wrapOffset_injOn (g : Segment) (off : Word32) {j k : Nat} (hj : j < 2 ^ 16) (hk : k < 2 ^ 16)
    (h : wrapOffset g off j = wrapOffset g off k) : j = k := by
  unfold wrapOffset at h
  split at h
  · have := add_left_cancel h
    bv_omega
  · have := congrArg BitVec.toNat h
    simp only [BitVec.toNat_ofNat] at this
    omega

/-- The bytes of an operand stand at distinct addresses. -/
theorem placeAddrs_nodup (s : State) (p : Place) {n : Nat} (hn : n ≤ 2 ^ 16) : (s.placeAddrs p n).Nodup := by
  refine (List.nodup_range).map_on fun j hj k hk h => ?_
  have hj : j < 2 ^ 16 := lt_of_lt_of_le (List.mem_range.mp hj) hn
  have hk : k < 2 ^ 16 := lt_of_lt_of_le (List.mem_range.mp hk) hn
  exact wrapOffset_injOn p.seg p.off hj hk (add_left_cancel (BitVec.eq_of_toNat_eq h))

/-- An operand that has been stored reads back. -/
theorem readBytes_store {u : State} (s : State) (p : Place) {n : Nat} {bs : List Byte} (hu : Memory.wf u.mem = true)
    (hn : n ≤ 2 ^ 16) (hl : bs.length = n) :
    readBytes (u.store (s.placeAddrs p n) bs).mem (s.placeAddrs p n) = bs :=
  readBytes_writeBytes hu _ _ (placeAddrs_nodup s p hn) (by simp [State.placeAddrs, hl])

theorem leNat_leBytes (n v : Nat) : leNat (leBytes n v) = v % 256 ^ n := by
  induction n generalizing v with
  | zero => simp [leBytes, leNat, Nat.mod_one]
  | succ n ih =>
    rw [leBytes, leNat, ih, pow_succ', Nat.mod_mul]
    simp

/-! ## The bits of the status word (R16) -/

theorem testBit_of_div_mod {n j : Nat} {b : Bool} (h : n / 2 ^ j % 2 = b.toNat) : n.testBit j = b := by
  rw [Nat.testBit_eq_decide_div_mod_eq, h]
  cases b <;> rfl

/-- The number whose bits the status word is (R16). -/
theorem toBits_toNat (w : StatusWord) :
    w.toBits.toNat = w.busy.toNat * 0x8000 + w.c3.toNat * 0x4000 + w.top.val * 0x800 + w.c2.toNat * 0x400
      + w.c1.toNat * 0x200 + w.c0.toNat * 0x100 + w.es.toNat * 0x80 + w.sf.toNat * 0x40 + w.pe.toNat * 0x20
      + w.ue.toNat * 0x10 + w.oe.toNat * 8 + w.ze.toNat * 4 + w.de.toNat * 2 + w.ie.toNat := by
  have := w.busy.toNat_le; have := w.c3.toNat_le; have := w.c2.toNat_le; have := w.c1.toNat_le
  have := w.c0.toNat_le; have := w.es.toNat_le; have := w.sf.toNat_le; have := w.pe.toNat_le
  have := w.ue.toNat_le; have := w.oe.toNat_le; have := w.ze.toNat_le; have := w.de.toNat_le
  have := w.ie.toNat_le; have := w.top.isLt
  exact (BitVec.toNat_ofNat _ 16).trans (Nat.mod_eq_of_lt (by omega))

theorem ofBits_toBits (w : StatusWord) : .ofBits w.toBits = w := by
  have h := toBits_toNat w
  have := w.busy.toNat_le; have := w.c3.toNat_le; have := w.c2.toNat_le; have := w.c1.toNat_le
  have := w.c0.toNat_le; have := w.es.toNat_le; have := w.sf.toNat_le; have := w.pe.toNat_le
  have := w.ue.toNat_le; have := w.oe.toNat_le; have := w.ze.toNat_le; have := w.de.toNat_le
  have := w.ie.toNat_le; have := w.top.isLt
  have bit : ∀ {j : Nat} {b : Bool}, w.toBits.toNat / 2 ^ j % 2 = b.toNat → w.toBits.getLsbD j = b :=
    fun h => testBit_of_div_mod h
  have htop : fin8 (w.toBits.toNat / 0x800) = w.top := Fin.ext (show _ % 8 = _ by omega)
  unfold StatusWord.ofBits
  rw [htop, bit (j := 15) (b := w.busy) (by omega), bit (j := 14) (b := w.c3) (by omega),
    bit (j := 10) (b := w.c2) (by omega),
    bit (j := 9) (b := w.c1) (by omega), bit (j := 8) (b := w.c0) (by omega), bit (j := 7) (b := w.es) (by omega),
    bit (j := 6) (b := w.sf) (by omega), bit (j := 5) (b := w.pe) (by omega), bit (j := 4) (b := w.ue) (by omega),
    bit (j := 3) (b := w.oe) (by omega), bit (j := 2) (b := w.ze) (by omega), bit (j := 1) (b := w.de) (by omega),
    bit (j := 0) (b := w.ie) (by omega)]

theorem toBits_ofBits (b : Word16) : (StatusWord.ofBits b).toBits = b := by
  have e : StatusWord.ofBits (StatusWord.ofBits b).toBits = .ofBits b := ofBits_toBits _
  generalize (StatusWord.ofBits b).toBits = c at e
  have htop : c.toNat / 0x800 % 8 = b.toNat / 0x800 % 8 := congrArg (fun w : StatusWord => w.top.val) e
  have bit : ∀ j < 3, c.getLsbD (11 + j) = b.getLsbD (11 + j) := fun j hj => by
    simp only [← BitVec.testBit_toNat]
    have low : ∀ n : Nat, n.testBit (11 + j) = (n / 0x800 % 8).testBit j := fun n => by
      rw [Nat.testBit_mod_two_pow (j := 3), decide_eq_true hj, Bool.true_and]
      exact Nat.testBit_div_two_pow (n := 11) n j ▸ by rw [Nat.add_comm]
    rw [low, low, htop]
  refine BitVec.eq_of_getLsbD_eq fun j hj => ?_
  interval_cases j
  · exact congrArg StatusWord.ie e
  · exact congrArg StatusWord.de e
  · exact congrArg StatusWord.ze e
  · exact congrArg StatusWord.oe e
  · exact congrArg StatusWord.ue e
  · exact congrArg StatusWord.pe e
  · exact congrArg StatusWord.sf e
  · exact congrArg StatusWord.es e
  · exact congrArg StatusWord.c0 e
  · exact congrArg StatusWord.c1 e
  · exact congrArg StatusWord.c2 e
  · exact bit 0 (by decide)
  · exact bit 1 (by decide)
  · exact bit 2 (by decide)
  · exact congrArg StatusWord.c3 e
  · exact congrArg StatusWord.busy e

/-! ## Control and status words (R332 to R336) -/

theorem escGates_of_waits {k : Manner} {i : Instr} {s : State} (hk : k.waits = true) {go : State → Result}
    (h : exec i s = escStart k s go) : escGates i s := by
  rw [escGates, h]
  exact ⟨fun h7 => escStart_notAvailable h7 _, fun hem hts het hes => escStart_numericError hem hts het hk hes _⟩

/-- An instruction that starts in `u` and leaves the processor alone completes. -/
theorem State.Entered.completed {s u v : State} (h : s.Entered u) (i : Instr) (hv : u.KeepsCpu v) (heip : v.eip = u.eip) :
    s.Completed (v.advance i) i := by
  have hcpu : s.KeepsCpu v := keepsCpu_trans h.cpu hv
  obtain ⟨-, hseg, hmode, -⟩ := id hcpu
  exact ⟨hcpu, advanced_of_fields i hseg hmode (heip.trans h.eip)⟩

/-- Settles O53: FLDCW is `loadWords` on the state that the prelude hands over. -/
theorem fldcwLoadsTheControlWord : Obligations.FldcwLoadsTheControlWord := by
  intro q m s
  refine ⟨?_, fun hr hreach => ?_⟩
  · obtain ⟨k, hwaits, go, h⟩ := exec_escStart (i := .fldcw q m) nofun s
    exact escGates_of_waits hwaits h
  · have hu : s.Entered (s.started .loadControl (.fldcw q m) m false 2) := entered_started rfl _ m false 2 s
    have hexec := escLoad_of_ready (k := .loadControl) (.fldcw q m) m 2 hr hreach fun bs u =>
      .next ((u.drawC3210.loadWords (BitVec.ofNat 16 (leNat bs)) u.drawC3210.sw).advance (.fldcw q m))
    generalize s.started .loadControl (.fldcw q m) m false 2 = u at hu hexec
    have hflag : ∀ w x, (u.drawC3210.loadWords w u.drawC3210.sw).sw.flag x = s.sw.flag x := fun w x => by
      rw [← hu.sw]; exact flags_of_sw ⟨rfl, rfl, rfl, rfl, rfl, rfl⟩ x
    have hes : ∀ w, unmaskedFlag w u.drawC3210.sw = true ↔ ∃ x, s.sw.flag x = true ∧ masked w x = false := fun w => by
      rw [unmaskedFlag_iff]
      exact exists_congr fun x => and_congr_left' (by rw [← hflag w x]; exact Iff.rfl)
    have htop : u.sw.top = s.sw.top := congrArg StatusWord.top hu.sw
    exact ⟨_, hexec, rfl, hflag _, hu.sf, htop, hes _, rfl, hu.regs, hu.empty, hu.pointers,
      hu.mem, hu.completed _ (entered_refl u).cpu rfl⟩

/-- The sixteen bits of a word, two bytes in memory. -/
theorem leNat_leBytes_word (w : Word16) : leNat (leBytes 2 w.toNat) = w.toNat := by
  rw [leNat_leBytes]
  exact Nat.mod_eq_of_lt w.isLt

/-- FNSTCW and FNSTSW store the word and go on with an undefined condition code. -/
theorem exec_controlStore {q : List Prefix} {s : State} {m : MemOp} {i : Instr} {w : Word16}
    (h : controlStore s q m i w) (hr : s.Ready false) (hreach : s.Reachable q m true 2) :
    ∃ u, s.Entered u ∧ exec i s =
      .next ((u.drawC3210.store (s.placeAddrs (s.place q m) 2) (leBytes 2 w.toNat)).advance i) := by
  rcases h with ⟨rfl, rfl⟩ | ⟨rfl, rfl⟩
  · have hu : s.Entered (s.started .noWait (.fnstcw q m) m true 2) := entered_started rfl _ m true 2 s
    refine ⟨_, hu, ?_⟩
    rw [← hu.cw]
    exact escStore_of_ready (k := .noWait) (.fnstcw q m) m 2 hr hreach fun u =>
      (u.drawC3210, some (leBytes 2 u.cw.toNat))
  · have hu : s.Entered (s.started .noWait (.fnstswM16 q m) m true 2) := entered_started rfl _ m true 2 s
    refine ⟨_, hu, ?_⟩
    rw [← hu.sw]
    exact escStore_of_ready (k := .noWait) (.fnstswM16 q m) m 2 hr hreach fun u =>
      (u.drawC3210, some (leBytes 2 u.sw.toBits.toNat))

theorem toBits_conditionCode (w : StatusWord) :
    w.toBits.getLsbD 8 = w.c0 ∧ w.toBits.getLsbD 10 = w.c2 ∧ w.toBits.getLsbD 14 = w.c3 :=
  ⟨congrArg StatusWord.c0 (ofBits_toBits w), congrArg StatusWord.c2 (ofBits_toBits w),
    congrArg StatusWord.c3 (ofBits_toBits w)⟩

/-- What is raised is told by status word and control word alone. -/
theorem raised_congr {s u t : State} {xs : List Exc} (hsw : u.sw = s.sw) (hcw : u.cw = s.cw) (h : u.Raised t xs) :
    s.Raised t xs := by
  unfold State.Raised at h ⊢
  rwa [← hsw, ← hcw]

/-- An undefined condition code is no exception. -/
theorem drawC3210_raised (u : State) : u.Raised u.drawC3210 [] := raised_nil u

/-- Settles O54: the word is taken before the condition code is drawn. -/
theorem controlAndStatusWordsAreStored : Obligations.ControlAndStatusWordsAreStored := by
  intro q s hs hr
  refine ⟨fun m i w hi hreach => ?_, ?_⟩
  · obtain ⟨u, hu, hexec⟩ := exec_controlStore hi hr hreach
    have hread := readBytes_store (u := u.drawC3210) s (s.place q m) (n := 2) (bs := leBytes 2 w.toNat)
      (by rw [show u.drawC3210.mem = s.mem from hu.mem]; exact hs.1) (by decide) (leBytes_length 2 _)
    have htop : u.sw.top = s.sw.top := congrArg StatusWord.top hu.sw
    refine ⟨_, hexec, ?_, ?_, raised_congr hu.sw hu.cw (drawC3210_raised u), htop, hu.regs, hu.empty, hu.cw,
      hu.pointers, hu.completed (v := u.drawC3210.store _ _) _ (entered_refl u).cpu rfl⟩
    · exact (congrArg leNat hread).trans (leNat_leBytes_word w)
    · exact keepsMemory_of_store (bs := leBytes 2 w.toNat) (congrArg (writeBytes · _ _) hu.mem)
  · obtain ⟨hrest, hhigh, hlow⟩ := setAx_spec s s.sw.toBits
    obtain ⟨h0, h2, h3⟩ := toBits_conditionCode s.sw
    have hax : ∀ j < 16, (s.setAx s.sw.toBits).gpr.eax.getLsbD j = s.sw.toBits.getLsbD j := fun j hj => by
      conv_rhs => rw [← hlow, Gprs.get16, BitVec.getLsbD_setWidth, decide_eq_true hj, Bool.true_and]
      rfl
    exact ⟨_, escReg_of_ready (k := .noWait) (.fnstswAx q) hr fun u =>
        .next ((u.drawC3210.setAx u.sw.toBits).advance (.fnstswAx q)), hlow, hhigh, hrest, drawC3210_raised s, rfl, rfl,
      rfl, rfl, ⟨rfl, rfl, rfl⟩, rfl, rfl, rfl, rfl,
      advanced_of_fields (v := s.drawC3210.setAx s.sw.toBits) _ rfl rfl rfl,
      (hax 8 (by decide)).trans h0, (hax 10 (by decide)).trans h2, (hax 14 (by decide)).trans h3⟩

/-- Settles O55: the flags are cleared in the status word of the state itself. -/
theorem fnclexClearsTheExceptions : Obligations.FnclexClearsTheExceptions := by
  intro q s hr
  exact ⟨_, escReg_of_ready (k := .noWait) (.fnclex q) hr fun u =>
      .next ((u.drawC3210.setSw u.drawC3210.sw.clearExceptions).advance (.fnclex q)), fun x => by cases x <;> rfl, rfl,
    rfl, rfl, rfl, rfl, rfl, rfl, ⟨rfl, rfl, rfl⟩, rfl,
    (entered_refl s).completed (v := s.drawC3210.setSw s.drawC3210.sw.clearExceptions) _ (entered_refl s).cpu rfl⟩

/-! ## Tags, no operation and WAIT (R348, R349, R350, R360) -/

theorem exec_noOperation {q : List Prefix} {s : State} {i : Instr}
    (h : i = .fnop q ∨ i = .feni q ∨ i = .fdisi q ∨ i = .fsetpm q) : exec i s = numReg i s id ∧ s.access i = none := by
  rcases h with rfl | rfl | rfl | rfl <;> exact ⟨rfl, rfl⟩

/-- Settles O60: FFREE changes one tag, and the others nothing but what the prelude changes. -/
theorem ffreeFnopAndWaitKeepTheRest : Obligations.FfreeFnopAndWaitKeepTheRest := by
  intro q j s
  refine ⟨fun h7 hes => ?_, fun hr => ⟨?_, fun i hi => ?_⟩⟩
  · refine ⟨s.synced.advance (.wait q), ?_, ?_, rfl, rfl, rfl, rfl, ⟨rfl, rfl, rfl⟩, rfl⟩
    · show execWait q s = _
      rw [execWait, h7, hes]
      rfl
    · exact (entered_refl s).completed _ (v := s.synced) (entered_refl s).cpu rfl
  · refine ⟨_, numReg_of_ready (body := fun u => u.freeReg (u.phys j)) hr, ?_, fun k hk => ?_, rfl, rfl, rfl,
      completedNumeric_advance (keepsControl_refl _) rfl⟩
    · exact (isEmpty_freeReg s (s.phys j) (s.phys j)).trans (if_pos rfl)
    · exact (isEmpty_freeReg s (s.phys j) k).trans (if_neg (by simpa using hk))
  · obtain ⟨hexec, hacc⟩ := exec_noOperation (s := s) hi
    exact ⟨_, hexec.trans (numReg_of_ready hr), rfl, rfl, rfl, rfl, completedNumeric_advance (keepsControl_refl _) hacc⟩

end Sys2Proof.Machine

/-! # Bodies: how an instruction that is executed ends

`Runs` says that an instruction is executed and leaves everything to its body.  What the body leaves unchanged is its
frame; what it raises, writes, pops and pushes is said here once for each way to end. -/

namespace Sys2Proof.Machine

/-! ## The instruction and its body (R200 (a)) -/

/-- `r` is what becomes of an instruction that is executed and completes as its body does. -/
def RunsTo (r : Result) (i : Instr) (s : State) (body : State → State) : Prop :=
  ∃ u, s.Begun u i ∧ r = .next ((body u).advance i)

/-- The instruction is executed, and completes as its body does. -/
abbrev Runs (i : Instr) (s : State) (body : State → State) : Prop := RunsTo (exec i s) i s body

section

variable {i : Instr} {s : State} {r : Result} {m : MemOp} {n p : Nat}

theorem runs_numReg {body : State → State} (h : numReg i s body = r) (hacc : s.access i = none)
    (hr : s.Ready true) : RunsTo r i s body :=
  ⟨_, begun_recordReg hacc, h.symm.trans (numReg_of_ready hr)⟩

theorem withPrecision_of_pcBits {u : State} {body : Nat → State → State} (hpc : pcBits u.cw = some p) :
    withPrecision i u body = .next ((body p u).advance i) := by
  rw [withPrecision, hpc]

theorem runs_numRegP {body : Nat → State → State} (h : numRegP i s body = r) (hacc : s.access i = none)
    (hr : s.Ready true) (hpc : pcBits s.cw = some p) : RunsTo r i s (body p) :=
  ⟨s.synced.recordReg i, begun_recordReg hacc,
    h.symm.trans ((escReg_of_ready (k := .numeric) i hr _).trans (withPrecision_of_pcBits hpc))⟩

theorem runs_numLoad {body : List Byte → State → State} (h : numLoad i m n s body = r)
    (hacc : s.access i = some ⟨m, false, n⟩) (hr : s.Ready true) (hreach : s.Reachable i.prefixes m false n) :
    RunsTo r i s (body (s.readPlace (s.place i.prefixes m) n)) :=
  ⟨_, begun_started hacc, h.symm.trans (escLoad_of_ready (k := .numeric) i m n hr hreach _)⟩

theorem runs_numLoadP {body : List Byte → Nat → State → State} (h : numLoadP i m n s body = r)
    (hacc : s.access i = some ⟨m, false, n⟩) (hr : s.Ready true) (hreach : s.Reachable i.prefixes m false n)
    (hpc : pcBits s.cw = some p) : RunsTo r i s (body (s.readPlace (s.place i.prefixes m) n) p) :=
  ⟨_, begun_started hacc, h.symm.trans ((escLoad_of_ready (k := .numeric) i m n hr hreach _).trans
    (withPrecision_of_pcBits (by rw [(begun_started hacc).cw, hpc])))⟩

end

/-! ## The state a body starts in -/

section Begun

variable {s u t : State} {i : Instr} (hb : s.Begun u i)
include hb

theorem State.Begun.phys (j : Fin 8) : u.phys j = s.phys j := phys_of_begun hb j
theorem State.Begun.reg (k : Fin 8) : u.reg k = s.reg k := congrArg (fun r : Vector Ext 8 => r[k]) hb.regs
theorem State.Begun.isEmpty (k : Fin 8) : u.isEmpty k = s.isEmpty k := congrArg (fun r : Vector Bool 8 => r[k]) hb.empty
theorem State.Begun.st (j : Fin 8) : u.st j = s.st j := by rw [State.st, hb.phys, hb.reg]; rfl
theorem State.Begun.stEmpty (j : Fin 8) : u.stEmpty j = s.stEmpty j := by rw [State.stEmpty, hb.phys, hb.isEmpty]; rfl
theorem State.Begun.full7 : u.full7 = s.full7 := by rw [State.full7, hb.sw, hb.isEmpty]; rfl
theorem State.Begun.rc : u.rc = s.rc := congrArg (fun c : Word16 => Rounding.ofBits (c.extractLsb' 10 2)) hb.cw
theorem State.Begun.params : u.params = s.params := by
  obtain ⟨-, -, -, -, -, -, -, -, h, -⟩ := hb.cpu
  exact h

theorem State.Begun.raised {xs : List Exc} (h : u.Raised t xs) : s.Raised t xs := raised_congr hb.sw hb.cw h

theorem State.Begun.stackFaulted {o : Bool} (h : u.StackFaulted t o) : s.StackFaulted t o := by
  unfold State.StackFaulted at h ⊢
  rwa [← hb.sw, ← hb.cw]

theorem State.Begun.popped {d : Option (Fin 8)} {n : Nat} (h : u.Popped t d n) : s.Popped t d n := by
  unfold State.Popped at h ⊢
  simpa only [hb.sw, hb.isEmpty] using h

theorem State.Begun.keepsRegs {ks : List (Fin 8)} (h : u.KeepsRegs t ks) : s.KeepsRegs t ks :=
  fun k hk => (h k hk).trans (hb.reg k)

theorem State.Begun.keepsTags {ks : List (Fin 8)} (h : u.KeepsTags t ks) : s.KeepsTags t ks :=
  fun k hk => (h k hk).trans (hb.isEmpty k)

/-- A body that stays in its frame changes no memory and completes. -/
theorem State.Begun.frame {results retagged : List (Fin 8)} {loose : List Exc} {v : State}
    (hv : Frame.Holds ⟨u, results, retagged, loose⟩ v) :
    s.KeepsMemory (v.advance i) [] ∧ s.CompletedNumeric (v.advance i) i :=
  ⟨keepsMemory_of_mem (hv.mem.trans hb.mem), hb.completed hv.control hv.fdp⟩

end Begun

/-! ## Pops (R13) -/

/-- The end of an instruction that pops `n` times. -/
def Pops (fin : State → State) (n : Nat) : Prop :=
  ∀ t : State, (fin t).regs = t.regs ∧ (fin t).sw = { t.sw with top := t.sw.top + Fin.ofNat 8 n }
    ∧ ∀ k, (fin t).isEmpty k = if (k - t.sw.top).val < n then true else t.isEmpty k

theorem pops_id : Pops id 0 := fun t => ⟨rfl, by rw [show Fin.ofNat 8 0 = 0 from rfl, add_zero]; rfl, by simp⟩

theorem sub_val_lt_one {k top : Fin 8} : (k - top).val < 1 ↔ k = top := by
  revert k top
  decide

theorem pops_pop : Pops State.pop 1 := fun t => ⟨rfl, rfl, fun k => by
  rw [(pop_spec t).2.2 k]
  exact if_congr sub_val_lt_one.symm rfl rfl⟩

theorem pops_pop2 : Pops State.pop2 2 := fun t => by
  obtain ⟨hr, hsw, he⟩ := pops_pop t.pop
  refine ⟨hr, ?_, fun k => ?_⟩
  · rw [State.pop2, hsw]
    show ({ t.sw with top := t.sw.top + 1 + 1 } : StatusWord) = _
    rw [add_assoc]
    rfl
  · rw [State.pop2, he, (pops_pop t).2.2 k, (pop_spec t).1]
    have : ((k - (t.sw.top + 1)).val < 1 ∨ (k - t.sw.top).val < 1) ↔ (k - t.sw.top).val < 2 := by
      generalize t.sw.top = top
      revert k top
      decide
    by_cases h1 : (k - (t.sw.top + 1)).val < 1 <;> by_cases h0 : (k - t.sw.top).val < 1 <;> simp_all

/-- The tags after a result in the register `d`, or none, and the pops. -/
theorem Pops.popped {fin : State → State} {n : Nat} (hf : Pops fin n) {s t : State} {d : Option (Fin 8)}
    (htop : t.sw.top = s.sw.top) (he : ∀ k, t.isEmpty k = if d = some k then false else s.isEmpty k) :
    s.Popped (fin t) d n := by
  obtain ⟨-, hsw, hemp⟩ := hf t
  exact ⟨by rw [hsw, htop], fun k => by rw [hemp, htop, he]⟩

/-! ## Exceptions that a change of other fields does not touch -/

/-- The flags, SF, ES and B: the status word without TOP and the condition code. -/
def StatusWord.errors (w : StatusWord) : StatusWord := { w with c3 := false, c2 := false, c1 := false, c0 := false, top := 0 }

theorem flag_errors (w : StatusWord) (x : Exc) : w.errors.flag x = w.flag x := by cases x <;> rfl

theorem errors_fields {v w : StatusWord} (h : v.errors = w.errors) :
    (∀ x, v.flag x = w.flag x) ∧ v.sf = w.sf ∧ v.es = w.es ∧ v.busy = w.busy := by
  have hflag : ∀ x, v.flag x = w.flag x := fun x => by rw [← flag_errors, h, flag_errors]
  have hsf : v.errors.sf = w.errors.sf := by rw [h]
  have hes : v.errors.es = w.errors.es := by rw [h]
  have hbusy : v.errors.busy = w.errors.busy := by rw [h]
  exact ⟨hflag, hsf, hes, hbusy⟩

theorem raised_of_errors {s t v : State} {xs : List Exc} (h : s.Raised t xs) (he : v.sw.errors = t.sw.errors) :
    s.Raised v xs := by
  obtain ⟨hflag, hsf, hes, hbusy⟩ := errors_fields he
  unfold State.Raised at h ⊢
  simpa only [hflag, hsf, hes, hbusy] using h

theorem stackFaulted_of_errors {s t v : State} {o : Bool} (h : s.StackFaulted t o) (he : v.sw.errors = t.sw.errors)
    (hc1 : v.sw.c1 = t.sw.c1) : s.StackFaulted v o := by
  obtain ⟨hflag, hsf, hes, hbusy⟩ := errors_fields he
  obtain ⟨h1, h2, h3, h4, h5, h6⟩ := h
  exact ⟨(hflag .ie).trans h1, hsf.trans h2, hc1.trans h3, fun x hx => (hflag x).trans (h4 x hx), hes.trans h5,
    hbusy.trans h6⟩

theorem Pops.errors {fin : State → State} {n : Nat} (hf : Pops fin n) (t : State) :
    (fin t).sw.errors = t.sw.errors := by
  rw [(hf t).2.1]
  rfl

/-! ## Changes that leave the stack alone -/

/-- Registers, tags and TOP are as before. -/
structure State.Steady (s t : State) : Prop where
  regs : t.regs = s.regs
  empty : t.empty = s.empty
  top : t.sw.top = s.sw.top

/-- A change of the condition code and of draws only. -/
structure State.Quiet (s t : State) : Prop extends s.Steady t where
  cw : t.cw = s.cw
  errors : t.sw.errors = s.sw.errors

theorem drawC320_quiet (s : State) : s.Quiet s.drawC320 := ⟨⟨rfl, rfl, rfl⟩, rfl, rfl⟩
theorem drawC320ClearC1_quiet (s : State) : s.Quiet s.drawC320ClearC1 := ⟨⟨rfl, rfl, rfl⟩, rfl, rfl⟩

section Steady

variable {s t : State}

theorem State.Steady.setC1 (h : s.Steady t) (b : Bool) : s.Steady (t.setC1 b) := ⟨h.regs, h.empty, h.top⟩
theorem State.Steady.raise (h : s.Steady t) (x : Exc) : s.Steady (t.raise x) :=
  ⟨h.regs, h.empty, (setFlag_top t.sw x).trans h.top⟩
theorem State.Steady.stackFault (h : s.Steady t) (o : Bool) : s.Steady (t.stackFault o) := ⟨h.regs, h.empty, h.top⟩

theorem State.Steady.reg (h : s.Steady t) (k : Fin 8) : t.reg k = s.reg k :=
  congrArg (fun r : Vector Ext 8 => r[k]) h.regs
theorem State.Steady.isEmpty (h : s.Steady t) (k : Fin 8) : t.isEmpty k = s.isEmpty k :=
  congrArg (fun r : Vector Bool 8 => r[k]) h.empty
theorem State.Steady.phys (h : s.Steady t) (j : Fin 8) : t.phys j = s.phys j := congrArg (· + j) h.top
theorem State.Steady.st (h : s.Steady t) (j : Fin 8) : t.st j = s.st j := by rw [State.st, h.phys, h.reg]; rfl
theorem State.Steady.stEmpty (h : s.Steady t) (j : Fin 8) : t.stEmpty j = s.stEmpty j := by
  rw [State.stEmpty, h.phys, h.isEmpty]; rfl
theorem State.Steady.full7 (h : s.Steady t) : t.full7 = s.full7 := by rw [State.full7, h.top, h.isEmpty]; rfl

/-- Nothing has been written or popped. -/
theorem State.Steady.left (h : s.Steady t) : s.KeepsRegs t [] ∧ s.KeepsTags t [] ∧ s.Popped t none 0 :=
  ⟨keepsRegs_of_regs h.regs, keepsTags_of_empty h.empty, popped_of_empty h.top h.empty⟩

/-- A result has been written, and the stack popped. -/
theorem State.Steady.put (h : s.Steady t) {fin : State → State} {n : Nat} (hf : Pops fin n) (k : Fin 8) (v : Ext) :
    (fin (t.putReg k v)).reg k = v ∧ s.KeepsRegs (fin (t.putReg k v)) [k] ∧ s.Popped (fin (t.putReg k v)) (some k) n := by
  have hreg : ∀ j, (fin (t.putReg k v)).reg j = if j = k then v else s.reg j := fun j => by
    rw [← h.reg, ← reg_putReg]
    exact congrArg (fun r : Vector Ext 8 => r[j]) (hf _).1
  refine ⟨(hreg k).trans (if_pos rfl), fun j hj => (hreg j).trans (if_neg (by simpa using hj)),
    hf.popped (by exact h.top) fun j => ?_⟩
  rw [isEmpty_putReg, h.isEmpty]
  exact if_congr (by simp [eq_comm]) rfl rfl

/-- Only pops. -/
theorem State.Steady.pop (h : s.Steady t) {fin : State → State} {n : Nat} (hf : Pops fin n) :
    s.KeepsRegs (fin t) [] ∧ s.Popped (fin t) none n :=
  ⟨keepsRegs_of_regs ((hf t).1.trans h.regs), hf.popped h.top fun k => by simp [h.isEmpty]⟩

end Steady

theorem State.Quiet.raised {s t v : State} {xs : List Exc} (h : s.Quiet t) (hr : t.Raised v xs) : s.Raised v xs := by
  obtain ⟨hflag, hsf, hes, hbusy⟩ := errors_fields h.errors
  unfold State.Raised at hr ⊢
  simpa only [hflag, hsf, hes, hbusy, h.cw] using hr

theorem State.Quiet.stackFaulted {s t v : State} {o : Bool} (h : s.Quiet t) (hr : t.StackFaulted v o) :
    s.StackFaulted v o := by
  obtain ⟨hflag, hsf, hes, hbusy⟩ := errors_fields h.errors
  unfold State.StackFaulted at hr ⊢
  simpa only [hflag, hsf, hes, hbusy, h.cw] using hr

/-! ## Responses (R165, R403, R410) -/

section Responses

variable {s t : State} {fin : State → State} {n : Nat}

/-- An exception whose masked response is a result and the pops. -/
theorem respond_put_spec (h : s.Quiet t) (hf : Pops fin n) (x : Exc) (k : Fin 8) (v : Ext) :
    let w := t.respond x fun u => fin (u.putExact k v)
    s.Raised w [x]
      ∧ (masked s.cw x = true →
          w.reg k = v ∧ s.KeepsRegs w [k] ∧ s.Popped w (some k) n ∧ w.sw.c1 = false)
      ∧ (masked s.cw x = false → s.KeepsRegs w [] ∧ s.Popped w none 0) := by
  intro w
  have hraised : s.Raised (t.raise x) [x] := h.raised (raise_raised t x)
  have hsteady : s.Steady (t.raise x) := h.toSteady.raise x
  rcases respond_cases t x fun u => fin (u.putExact k v) with ⟨hm, hw⟩ | ⟨hm, hw⟩
  · have hw : w = fin (((t.raise x).setC1 false).putReg k v) := hw
    rw [hw]
    obtain ⟨hreg, hregs, hpopped⟩ := (hsteady.setC1 false).put hf k v
    refine ⟨raised_of_errors hraised (hf.errors _), fun _ => ⟨hreg, hregs, hpopped, ?_⟩,
      fun hn => by rw [← h.cw, hm] at hn; cases hn⟩
    rw [(hf _).2.1]
    rfl
  · have hw : w = t.raise x := hw
    rw [hw]
    obtain ⟨hregs, -, hpopped⟩ := hsteady.left
    exact ⟨hraised, fun hn => by (rw [← h.cw, hm] at hn; cases hn), fun _ => ⟨hregs, hpopped⟩⟩

/-- A stack underflow whose masked response is a result and the pops. -/
theorem faultThen_put_spec (h : s.Quiet t) (hf : Pops fin n) (o : Bool) (k : Fin 8) (v : Ext) :
    let w := t.faultThen o fun u => fin (u.putReg k v)
    s.StackFaulted w o
      ∧ (masked s.cw .ie = true → w.reg k = v ∧ s.KeepsRegs w [k] ∧ s.Popped w (some k) n)
      ∧ (masked s.cw .ie = false → s.KeepsRegs w [] ∧ s.Popped w none 0) := by
  intro w
  have hfault : s.StackFaulted (t.stackFault o) o := h.stackFaulted (stackFault_spec t o)
  have hsteady : s.Steady (t.stackFault o) := h.toSteady.stackFault o
  rcases faultThen_cases t o fun u => fin (u.putReg k v) with ⟨hm, hw⟩ | ⟨hm, hw⟩
  · have hw : w = fin ((t.stackFault o).putReg k v) := hw
    rw [hw]
    refine ⟨stackFaulted_of_errors hfault (hf.errors _) ?_, fun _ => hsteady.put hf k v,
      fun hn => by rw [← h.cw, hm] at hn; cases hn⟩
    rw [(hf _).2.1]
    rfl
  · have hw : w = t.stackFault o := hw
    rw [hw]
    obtain ⟨hregs, -, hpopped⟩ := hsteady.left
    exact ⟨hfault, fun hn => by (rw [← h.cw, hm] at hn; cases hn), fun _ => ⟨hregs, hpopped⟩⟩

/-- A result that raises nothing. -/
theorem putExact_spec (h : s.Quiet t) (hf : Pops fin n) (k : Fin 8) (v : Ext) :
    let w := fin (t.putExact k v)
    s.Raised w [] ∧ w.reg k = v ∧ s.KeepsRegs w [k] ∧ s.Popped w (some k) n ∧ w.sw.c1 = false := by
  intro w
  obtain ⟨hreg, hregs, hpopped⟩ := (h.toSteady.setC1 false).put hf k v
  refine ⟨raised_of_errors (h.raised (raised_nil t)) (hf.errors _), hreg, hregs, hpopped, ?_⟩
  show (fin (t.putExact k v)).sw.c1 = false
  rw [(hf _).2.1]
  rfl

end Responses

/-! ## The same for the instruction -/

section Begun

variable {s u t : State} {i : Instr} {fin : State → State} {n : Nat} (hb : s.Begun u i) (h : u.Quiet t) (hf : Pops fin n)
include hb h hf

theorem State.Begun.respond_put (x : Exc) (k : Fin 8) (v : Ext) :
    let w := (t.respond x fun u => fin (u.putExact k v)).advance i
    s.Raised w [x]
      ∧ (masked s.cw x = true → w.reg k = v ∧ s.KeepsRegs w [k] ∧ s.Popped w (some k) n ∧ w.sw.c1 = false)
      ∧ (masked s.cw x = false → s.KeepsRegs w [] ∧ s.Popped w none 0) := by
  obtain ⟨hraised, hmasked, hunmasked⟩ := respond_put_spec h hf x k v
  rw [hb.cw] at hmasked hunmasked
  refine ⟨hb.raised hraised, fun hm => ?_, fun hm => ?_⟩
  · obtain ⟨hreg, hregs, hpopped, hc1⟩ := hmasked hm
    exact ⟨hreg, hb.keepsRegs hregs, hb.popped hpopped, hc1⟩
  · obtain ⟨hregs, hpopped⟩ := hunmasked hm
    exact ⟨hb.keepsRegs hregs, hb.popped hpopped⟩

theorem State.Begun.faultThen_put (o : Bool) (k : Fin 8) (v : Ext) :
    let w := (t.faultThen o fun u => fin (u.putReg k v)).advance i
    s.StackFaulted w o
      ∧ (masked s.cw .ie = true → w.reg k = v ∧ s.KeepsRegs w [k] ∧ s.Popped w (some k) n)
      ∧ (masked s.cw .ie = false → s.KeepsRegs w [] ∧ s.Popped w none 0) := by
  obtain ⟨hfault, hmasked, hunmasked⟩ := faultThen_put_spec h hf o k v
  rw [hb.cw] at hmasked hunmasked
  refine ⟨hb.stackFaulted hfault, fun hm => ?_, fun hm => ?_⟩
  · obtain ⟨hreg, hregs, hpopped⟩ := hmasked hm
    exact ⟨hreg, hb.keepsRegs hregs, hb.popped hpopped⟩
  · obtain ⟨hregs, hpopped⟩ := hunmasked hm
    exact ⟨hb.keepsRegs hregs, hb.popped hpopped⟩

theorem State.Begun.putExact (k : Fin 8) (v : Ext) :
    let w := (fin (t.putExact k v)).advance i
    s.Raised w [] ∧ w.reg k = v ∧ s.KeepsRegs w [k] ∧ s.Popped w (some k) n ∧ w.sw.c1 = false := by
  obtain ⟨hraised, hreg, hregs, hpopped, hc1⟩ := putExact_spec h hf k v
  exact ⟨hb.raised hraised, hreg, hb.keepsRegs hregs, hb.popped hpopped, hc1⟩

end Begun

end Sys2Proof.Machine

/-! # The basic operations without a rounded result (O33, O34, the first part of O35)

The eighteen register forms are one body, `arithRegs`, over an operation, an order of the operands and pops; its ways to
end are the branches of `arith`, each said once. -/

namespace Sys2Proof.Machine

/-! ## The register forms (R230 to R241, R253 to R258) -/

/-- The operands in the order in which `arith` computes on them. -/
def Order.pair {α : Type} : Order → α → α → α × α
  | .straight, d, e => (d, e)
  | .reversed, d, e => (e, d)

theorem Order.pair_map {α β : Type} (o : Order) (f : α → β) {d e x y : α} (h : o.pair d e = (x, y)) :
    o.pair (f d) (f e) = (f x, f y) := by
  cases o <;> cases h <;> rfl

/-- The operation on the values of the operands. -/
def ArithOp.value : ArithOp → ℚ → ℚ → ℚ
  | .add, x, y => x + y
  | .sub, x, y => x - y
  | .mul, x, y => x * y
  | .div, x, y => x / y

/-- The operation that is left when a subtraction is an addition of the negated operand. -/
def ArithOp.core : ArithOp → ArithOp
  | .sub => .add
  | op => op

/-- The second operand of that operation. -/
def ArithOp.operand : ArithOp → Ext → Ext
  | .sub, y => negExt y
  | _, y => y

/-- An operation, the order of its operands, and the end of the instruction. -/
structure ArithForm where
  op : ArithOp
  order : Order
  fin : State → State

/-- The value of the result by destination and source. -/
def ArithForm.value (a : ArithForm) (d e : ℚ) : ℚ := a.op.value (a.order.pair d e).1 (a.order.pair d e).2

/-- The operands that an operation calls invalid. -/
def ArithOp.invalid (op : ArithOp) (x y : Ext) : Bool := arithInvalid op.core x (op.operand y)

theorem ArithOp.invalid_comm (op : ArithOp) (x y : Ext) : op.invalid x y = op.invalid y x := by
  have hadd : (x.isInf && y.isInf && x.sign != y.sign) = (y.isInf && x.isInf && y.sign != x.sign) := by
    cases x.sign <;> cases y.sign <;> cases x.isInf <;> cases y.isInf <;> rfl
  cases op with
  | add => exact hadd
  | sub =>
    show (x.isInf && y.isInf && x.sign != !y.sign) = (y.isInf && x.isInf && y.sign != !x.sign)
    cases x.sign <;> cases y.sign <;> cases x.isInf <;> cases y.isInf <;> rfl
  | mul =>
    show (x.isInf && y.isZero || x.isZero && y.isInf) = (y.isInf && x.isZero || y.isZero && x.isInf)
    cases x.isZero <;> cases y.isZero <;> cases x.isInf <;> cases y.isInf <;> rfl
  | div =>
    show (x.isInf && y.isInf || x.isZero && y.isZero) = (y.isInf && x.isInf || y.isZero && x.isZero)
    rw [Bool.and_comm x.isInf, Bool.and_comm x.isZero]

/-- An instruction is a form of the body `arithRegs`. -/
structure RegisterArith (i : Instr) (s : State) (d e : Fin 8) (pops : Nat) (op : ℚ → ℚ → ℚ) (a : ArithForm) : Prop where
  executes : numRegP i s (arithRegs a.op a.order d e a.fin) = exec i s
  access : s.access i = none
  pops : Pops a.fin pops
  leads : ∀ F : Frame, F.start.phys 0 ∈ F.results ++ F.retagged → F.Leads a.fin
  value : op = a.value
  invalid : ∀ x y, invalidOperands i x y = a.op.invalid x y

theorem sign_eq_not (a b : Bool) : (a == b) = (a != !b) := by cases a <;> cases b <;> rfl

/-- The form that each of the basic operations is. -/
def arithForm : Instr → ArithForm
  | .faddp _ _ => ⟨.add, .straight, State.pop⟩
  | .fmulStSti _ _ | .fmulStiSt _ _ | .fmulM32 _ _ | .fmulM64 _ _ | .fimulI32 _ _ | .fimulI16 _ _ => ⟨.mul, .straight, id⟩
  | .fmulp _ _ => ⟨.mul, .straight, State.pop⟩
  | .fsubStSti _ _ | .fsubStiSt _ _ | .fsubM32 _ _ | .fsubM64 _ _ | .fisubI32 _ _ | .fisubI16 _ _ => ⟨.sub, .straight, id⟩
  | .fsubp _ _ => ⟨.sub, .straight, State.pop⟩
  | .fsubrStSti _ _ | .fsubrStiSt _ _ | .fsubrM32 _ _ | .fsubrM64 _ _ | .fisubrI32 _ _ | .fisubrI16 _ _ =>
    ⟨.sub, .reversed, id⟩
  | .fsubrp _ _ => ⟨.sub, .reversed, State.pop⟩
  | .fdivStSti _ _ | .fdivStiSt _ _ | .fdivM32 _ _ | .fdivM64 _ _ | .fidivI32 _ _ | .fidivI16 _ _ => ⟨.div, .straight, id⟩
  | .fdivp _ _ => ⟨.div, .straight, State.pop⟩
  | .fdivrStSti _ _ | .fdivrStiSt _ _ | .fdivrM32 _ _ | .fdivrM64 _ _ | .fidivrI32 _ _ | .fidivrI16 _ _ =>
    ⟨.div, .reversed, id⟩
  | .fdivrp _ _ => ⟨.div, .reversed, State.pop⟩
  | _ => ⟨.add, .straight, id⟩

theorem registerArith_of {i : Instr} (s : State) {d e : Fin 8} {pops : Nat} {op : ℚ → ℚ → ℚ}
    (h : registerArithmetic i = some (d, e, pops, op)) : RegisterArith i s d e pops op (arithForm i) := by
  have sub : ∀ x y : Ext, (x.isInf && y.isInf && x.sign == y.sign) = ArithOp.sub.invalid x y := fun x y => by
    rw [sign_eq_not]
    rfl
  have leadsId : ∀ F : Frame, F.start.phys 0 ∈ F.results ++ F.retagged → F.Leads id := fun _ _ => frame_leads_id
  have leadsPop : ∀ F : Frame, F.start.phys 0 ∈ F.results ++ F.retagged → F.Leads State.pop := fun _ => frame_leads_pop
  cases i with
  | fsubStSti | fsubStiSt | fsubrStSti | fsubrStiSt => cases h; exact ⟨rfl, rfl, pops_id, leadsId, rfl, sub⟩
  | fsubp | fsubrp => cases h; exact ⟨rfl, rfl, pops_pop, leadsPop, rfl, sub⟩
  | faddStSti | faddStiSt | fmulStSti | fmulStiSt | fdivStSti | fdivStiSt | fdivrStSti | fdivrStiSt =>
    cases h; exact ⟨rfl, rfl, pops_id, leadsId, rfl, fun _ _ => rfl⟩
  | faddp | fmulp | fdivp | fdivrp => cases h; exact ⟨rfl, rfl, pops_pop, leadsPop, rfl, fun _ _ => rfl⟩
  | _ => cases h

/-! ## The branches of `arith` (R230 (e)) -/

section Branches

variable {op : ArithOp} {o : Order} {k d e : Fin 8} {x y : Ext} {memden : Bool} {p : Nat} {fin : State → State} {s : State}

theorem arithOrdered_eq : arithOrdered op o k x y memden p fin s = arith op k (o.pair x y).1 (o.pair x y).2 memden p fin s := by
  cases o <;> rfl

theorem arith_unsupported (h : x.isUnsupported = true ∨ y.isUnsupported = true) :
    arith op k x y memden p fin s = s.respond .ie fun u => fin (u.putExact k indefinite) :=
  if_pos (by simpa using h)

theorem arith_snan (hx : x.isUnsupported = false) (hy : y.isUnsupported = false) (h : (x.isSnan || y.isSnan) = true) :
    arith op k x y memden p fin s = s.respond .ie fun u => fin (u.putExact k (nanResult x y)) := by
  simp [arith, hx, hy, h]

theorem arith_qnan (hx : x.isUnsupported = false) (hy : y.isUnsupported = false) (hs : (x.isSnan || y.isSnan) = false)
    (h : x.isNan = true ∨ y.isNan = true) :
    arith op k x y memden p fin s = fin (s.putExact k (nanResult x y)) := by
  simp [arith, hx, hy, hs, h]

/-- Neither a NaN nor unsupported. -/
def Ext.isNumber (x : Ext) : Bool := !x.isUnsupported && !x.isNan

theorem isSnan_of_isNumber (h : Ext.isNumber x = true) : x.isSnan = false := by
  simp only [Ext.isNumber, Ext.isNan, Bool.and_eq_true, Bool.not_eq_true', Bool.or_eq_false_iff] at h
  exact h.2.1

theorem arith_numbers (hx : Ext.isNumber x = true) (hy : Ext.isNumber y = true) :
    arith op k x y memden p fin s = arithNumbers op.core k x (op.operand y) memden p fin s := by
  have h1 := isSnan_of_isNumber hx
  have h2 := isSnan_of_isNumber hy
  simp only [Ext.isNumber, Bool.and_eq_true, Bool.not_eq_true'] at hx hy
  obtain ⟨hx1, hx2⟩ := hx
  obtain ⟨hy1, hy2⟩ := hy
  simp only [arith, hx1, hx2, hy1, hy2, h1, h2, Bool.or_self, Bool.false_eq_true, if_false]
  cases op <;> rfl

/-- A pattern that belongs to one of the classes of numbers. -/
theorem isNumber_of_class (h : x.isInf = true ∨ x.isZero = true ∨ x.isFiniteNonzero = true) : Ext.isNumber x = true := by
  unfold Ext.isNumber Ext.isUnsupported Ext.isNan
  unfold Ext.isInf Ext.isZero Ext.isFiniteNonzero at h
  revert h
  cases classify x <;> decide

theorem arithRegs_nonempty (hd : s.stEmpty d = false) (he : s.stEmpty e = false) :
    arithRegs op o d e fin p s =
      arith op (s.phys d) (o.pair (s.st d) (s.st e)).1 (o.pair (s.st d) (s.st e)).2 false p fin s.drawC320 := by
  rw [← arithOrdered_eq]
  have hd : s.drawC320.stEmpty d = false := hd
  have he : s.drawC320.stEmpty e = false := he
  simp only [arithRegs, hd, he, Bool.or_self, Bool.false_eq_true, if_false]
  rfl

theorem faultThen_putSt {b : Bool} {v : Ext} :
    (s.faultThen b fun u => fin (u.putSt d v)) = s.faultThen b fun u => fin (u.putReg (s.phys d) v) := rfl

theorem arithRegs_empty (h : s.stEmpty d = true ∨ s.stEmpty e = true) :
    arithRegs op o d e fin p s = s.drawC320.faultThen false fun u => fin (u.putReg (s.phys d) indefinite) := by
  have h : (s.stEmpty d || s.stEmpty e) = true := by simpa using h
  have h : (s.drawC320.stEmpty d || s.drawC320.stEmpty e) = true := h
  simp only [arithRegs, h, if_true]
  exact faultThen_putSt

end Branches

/-- A register form is executed in some precision. -/
theorem RegisterArith.runs {i : Instr} {s : State} {d e : Fin 8} {pops : Nat} {op : ℚ → ℚ → ℚ} {a : ArithForm}
    (h : RegisterArith i s d e pops op a) (hr : s.Ready true) {p : Nat} (hpc : pcBits s.cw = some p) :
    ∃ u, s.Begun u i ∧ exec i s = .next ((arithRegs a.op a.order d e a.fin p u).advance i)
      ∧ s.KeepsMemory ((arithRegs a.op a.order d e a.fin p u).advance i) []
      ∧ s.CompletedNumeric ((arithRegs a.op a.order d e a.fin p u).advance i) i := by
  obtain ⟨u, hb, hexec⟩ := runs_numRegP h.executes h.access hr hpc
  have hleads : Frame.Holds ⟨u, [u.phys d], [u.phys 0], []⟩ (arithRegs a.op a.order d e a.fin p u) :=
    arithRegs_leads (F := ⟨u, [u.phys d], [u.phys 0], []⟩) (by simp) (h.leads _ (by simp)) p u frame_start
  exact ⟨u, hb, hexec, hb.frame hleads⟩

theorem pcBits_of_ne {cw : Word16} (h : pcBits cw ≠ none) : ∃ p, pcBits cw = some p := Option.ne_none_iff_exists'.mp h

/-! ## Zero divide (R166) -/

/-- Division of a finite nonzero number by zero. -/
theorem arith_zeroDivide {k : Fin 8} {x y : Ext} {memden : Bool} {p : Nat} {fin : State → State} {s : State}
    (hx : x.isFiniteNonzero = true) (hy : y.isZero = true) :
    arith .div k x y memden p fin s = s.respond .ze fun u => fin (u.putExact k (infExt (x.sign != y.sign))) := by
  have hclass : x.isInf = false ∧ x.isZero = false ∧ y.isInf = false := by
    unfold Ext.isFiniteNonzero at hx
    unfold Ext.isZero at hy
    unfold Ext.isInf Ext.isZero
    revert hx hy
    cases classify x <;> cases classify y <;> decide
  obtain ⟨h1, h2, h3⟩ := hclass
  rw [arith_numbers (isNumber_of_class (.inr (.inr hx))) (isNumber_of_class (.inr (.inl hy)))]
  simp [arithNumbers, arithInvalid, zeroDivide, ArithOp.core, ArithOp.operand, h1, h2, h3, hy]

/-- Settles O33: the six forms are `arithRegs` of a division, with the dividend first. -/
theorem divisionByZero : Obligations.DivisionByZero := by
  intro q s i j d dividend divisor pops hi hr hpc hdd hdv hx hy
  obtain ⟨p, hpc⟩ := pcBits_of_ne hpc
  have hform : ∃ e op a, RegisterArith i s d e pops op a ∧ a.op = .div
      ∧ a.order.pair d e = (dividend, divisor) := by
    rcases hi with ⟨rfl, rfl, rfl, rfl, rfl⟩ | ⟨rfl, rfl, rfl, rfl, rfl⟩ | ⟨rfl, rfl, rfl, rfl, rfl⟩
        | ⟨rfl, rfl, rfl, rfl, rfl⟩ | ⟨rfl, rfl, rfl, rfl, rfl⟩ | ⟨rfl, rfl, rfl, rfl, rfl⟩
    all_goals exact ⟨_, _, _, registerArith_of s rfl, rfl, rfl⟩
  obtain ⟨e, op, ⟨aop, o, fin⟩, ha, rfl, hpair⟩ := hform
  obtain ⟨u, hb, hexec, hmem, hcompleted⟩ := ha.runs hr hpc
  have hde : u.stEmpty d = false ∧ u.stEmpty e = false := by
    cases o <;> cases hpair <;> simp only [hb.stEmpty, hdd, hdv, and_self]
  rw [arithRegs_nonempty hde.1 hde.2, o.pair_map u.st hpair, hb.st, hb.st, arith_zeroDivide hx hy, hb.phys] at hexec hmem hcompleted
  obtain ⟨hraised, hmasked, hunmasked⟩ := hb.respond_put (drawC320_quiet u) ha.pops .ze (s.phys d)
    (infExt ((s.st dividend).sign != (s.st divisor).sign))
  exact ⟨_, hexec, hraised, hmem, hcompleted, hmasked, hunmasked⟩

/-! ## NaNs (R146, R151, R152) -/

/-- The fields of a NaN. -/
theorem nan_fields {x : Ext} (h : x.isNan = true) :
    x.exp = expMax ∧ x.sig.getLsbD 63 = true ∧ x.sig ≠ sigOne ∧ (x.isSnan = !x.sig.getLsbD 62) := by
  unfold Ext.isNan at h
  unfold Ext.isSnan
  unfold classify at h ⊢
  split at h
  · split at h
    · cases h
    · split at h <;> cases h
  · split at h
    next h63 =>
      split at h
      next hexp =>
        split at h
        · cases h
        next hone =>
          refine ⟨hexp, h63, hone, ?_⟩
          rw [if_neg ‹_›, if_pos h63, if_pos hexp, if_neg hone]
          cases x.sig.getLsbD 62 <;> rfl
      · cases h
    · cases h

theorem classify_quiet {x : Ext} (h : x.isNan = true) : classify (quiet x) = .qnan := by
  obtain ⟨hexp, h63, -, -⟩ := nan_fields h
  have e63 : (quiet x).sig.getLsbD 63 = true := by simp [quiet, h63]
  have e62 : (quiet x).sig.getLsbD 62 = true := by
    rw [quiet, BitVec.getLsbD_or]
    exact Bool.or_eq_true_iff.mpr (.inr (by decide))
  have hone : (quiet x).sig ≠ sigOne := fun h => absurd (h ▸ e62) (by decide)
  have hzero : (quiet x).exp ≠ 0 := by
    show x.exp ≠ 0
    rw [hexp]
    decide
  rw [classify, if_neg hzero, if_pos e63, if_pos (show (quiet x).exp = expMax from hexp), if_neg hone, if_pos e62]

theorem isNan_of_class {x : Ext} (h : classify x = .snan ∨ classify x = .qnan) : x.isNan = true := by
  rcases h with h | h <;> simp [Ext.isNan, h]

/-- What R152's table selects does not depend on the order of the operands. -/
theorem selectedNan_symm {x y r : Ext} (h : selectedNan x y r) (hnan : x.isNan = true ∨ y.isNan = true) :
    selectedNan y x r := by
  obtain ⟨hr, hx, hy, hsq, hqs, hsame⟩ := h
  refine ⟨hr, hy, hx, fun h1 h2 => hqs h2 h1, fun h1 h2 => hsq h2 h1, fun hc => ?_⟩
  obtain ⟨h1, h2, h3⟩ := hsame hc.symm
  refine ⟨h2, h1, fun hsig => ?_⟩
  rw [h3 hsig.symm]
  have hboth : x.isNan = true ∧ y.isNan = true := by
    unfold Ext.isNan at hnan ⊢
    rw [hc] at hnan ⊢
    simpa using hnan
  have hexp : x.exp = y.exp := (nan_fields hboth.1).1.trans (nan_fields hboth.2).1.symm
  have heq : x.sign = y.sign → x = y := fun hs => by
    cases x; cases y; simp_all
  cases hs : x.sign <;> cases ht : y.sign <;> simp only [Bool.false_eq_true, if_false, if_true]
  · rw [heq (hs.trans ht.symm)]
  · rw [heq (hs.trans ht.symm)]

theorem largerNan_cases (x y : Ext) :
    (y.sig < x.sig → largerNan x y = quiet x) ∧ (x.sig < y.sig → largerNan x y = quiet y)
      ∧ (x.sig = y.sig → largerNan x y = quiet (if x.sign then y else x)) := by
  simp only [BitVec.lt_def, ← BitVec.toNat_inj]
  refine ⟨fun h => if_pos h, fun h => ?_, fun h => ?_⟩
  · rw [largerNan, if_neg (by omega), if_pos h]
  · rw [largerNan, if_neg (by omega), if_neg (by omega), apply_ite quiet]

/-- A NaN in the result is one of the operands, made quiet. -/
theorem classify_largerNan {x y : Ext} (hx : x.isNan = true) (hy : y.isNan = true) :
    classify (largerNan x y) = .qnan := by
  unfold largerNan
  split
  · exact classify_quiet hx
  · split
    · exact classify_quiet hy
    · split
      · exact classify_quiet hy
      · exact classify_quiet hx

theorem quiet_of_qnan {x : Ext} (h : classify x = .qnan) : quiet x = x := by
  have hsnan : x.isSnan = false := by simp [Ext.isSnan, h]
  obtain ⟨-, -, -, h62⟩ := nan_fields (isNan_of_class (.inr h))
  rw [hsnan] at h62
  have : x.sig ||| 0x4000000000000000#64 = x.sig := by
    refine BitVec.eq_of_getLsbD_eq fun j hj => ?_
    rw [BitVec.getLsbD_or]
    by_cases hj62 : j = 62
    · subst hj62
      simp_all
    · rw [show (0x4000000000000000#64).getLsbD j = false by revert hj62; interval_cases j <;> decide, Bool.or_false]
  rw [quiet, this]

theorem selectedNan_largerNan {x y : Ext} (hc : classify x = classify y) (h : x.isNan = true) :
    selectedNan x y (largerNan x y) := by
  have hy : y.isNan = true := by
    unfold Ext.isNan at h ⊢
    rwa [← hc]
  refine ⟨classify_largerNan h hy, fun hn => ?_, fun hn => ?_, fun h1 h2 => ?_, fun h1 h2 => ?_,
    fun _ => largerNan_cases x y⟩
  · cases hy.symm.trans hn
  · cases h.symm.trans hn
  · simp [Ext.isSnan, hc, h2] at h1
  · simp [Ext.isSnan, ← hc, h1] at h2

/-- Of two operands of different classes the first is a quiet NaN. -/
theorem selectedNan_quietFirst {x y : Ext} (hx : classify x = .qnan) (hy : classify y ≠ .qnan) : selectedNan x y x := by
  have hnan : x.isNan = true := isNan_of_class (.inr hx)
  refine ⟨hx, fun _ => (quiet_of_qnan hx).symm, fun h => ?_, fun h _ => ?_, fun _ _ => rfl, fun h => ?_⟩
  · cases hnan.symm.trans h
  · simp [Ext.isSnan, hx] at h
  · exact absurd (h.symm.trans hx) hy

/-- The first operand is a signaling NaN and the second a number. -/
theorem selectedNan_signalingFirst {x y : Ext} (hx : classify x = .snan) (hy : y.isNan = false) :
    selectedNan x y (quiet x) := by
  have hnan : x.isNan = true := isNan_of_class (.inl hx)
  refine ⟨classify_quiet hnan, fun _ => rfl, fun h => ?_, fun _ h => ?_, fun h _ => ?_, fun h => ?_⟩
  · cases hnan.symm.trans h
  · simp [Ext.isNan, h] at hy
  · cases hx.symm.trans h
  · simp [Ext.isNan, ← h, hx] at hy

/-- `nanResult` is R152's table. -/
theorem selectedNan_nanResult {x y : Ext} (h : x.isNan = true ∨ y.isNan = true) : selectedNan x y (nanResult x y) := by
  have number : ∀ {z : Ext}, classify z ≠ .qnan → classify z ≠ .snan → z.isNan = false := fun h1 h2 => by
    simp [Ext.isNan, h1, h2]
  by_cases hxq : classify x = .qnan
  · by_cases hyq : classify y = .qnan
    · rw [show nanResult x y = largerNan x y by simp [nanResult, hxq, hyq]]
      exact selectedNan_largerNan (hxq.trans hyq.symm) (isNan_of_class (.inr hxq))
    · rw [show nanResult x y = x by unfold nanResult; rw [hxq]; split <;> simp_all]
      exact selectedNan_quietFirst hxq hyq
  by_cases hyq : classify y = .qnan
  · rw [show nanResult x y = y by unfold nanResult; rw [hyq]; split <;> simp_all]
    exact selectedNan_symm (selectedNan_quietFirst hyq hxq) (.inl (isNan_of_class (.inr hyq)))
  by_cases hxs : classify x = .snan
  · by_cases hys : classify y = .snan
    · rw [show nanResult x y = largerNan x y by simp [nanResult, hxs, hys]]
      exact selectedNan_largerNan (hxs.trans hys.symm) (isNan_of_class (.inl hxs))
    · rw [show nanResult x y = quiet x by unfold nanResult; rw [hxs]; split <;> simp_all]
      exact selectedNan_signalingFirst hxs (number hyq hys)
  · have hys : classify y = .snan := by
      rw [number hxq hxs] at h
      simpa [Ext.isNan, hyq] using h
    rw [show nanResult x y = quiet y by unfold nanResult; rw [hys]; split <;> simp_all]
    exact selectedNan_symm (selectedNan_signalingFirst hys (number hxq hxs)) (.inl (isNan_of_class (.inl hys)))

/-- The same with the operands in either order. -/
theorem selectedNan_pair (o : Order) {x y : Ext} (h : x.isNan = true ∨ y.isNan = true) :
    selectedNan x y (nanResult (o.pair x y).1 (o.pair x y).2) := by
  cases o with
  | straight => exact selectedNan_nanResult h
  | reversed => exact selectedNan_symm (selectedNan_nanResult h.symm) h.symm

theorem Order.pair_or (o : Order) (P : Ext → Prop) (x y : Ext) :
    (P (o.pair x y).1 ∨ P (o.pair x y).2) ↔ P x ∨ P y := by
  cases o with
  | straight => exact Iff.rfl
  | reversed => exact or_comm

theorem Order.pair_and (o : Order) (P : Ext → Prop) (x y : Ext) :
    (P (o.pair x y).1 ∧ P (o.pair x y).2) ↔ P x ∧ P y := by
  cases o with
  | straight => exact Iff.rfl
  | reversed => exact and_comm

theorem arith_invalid {op : ArithOp} {k : Fin 8} {x y : Ext} {memden : Bool} {p : Nat} {fin : State → State}
    {s : State} (h : op.invalid x y = true) :
    arith op k x y memden p fin s = s.respond .ie fun u => fin (u.putExact k indefinite) := by
  have hnum : Ext.isNumber x = true ∧ Ext.isNumber y = true := by
    have classes : (x.isInf = true ∨ x.isZero = true) ∧ (y.isInf = true ∨ y.isZero = true) := by
      cases op <;> simp only [ArithOp.invalid, arithInvalid, ArithOp.core, ArithOp.operand, Bool.and_eq_true,
        Bool.or_eq_true] at h
      · exact ⟨.inl h.1.1, .inl h.1.2⟩
      · exact ⟨.inl h.1.1, .inl h.1.2⟩
      · rcases h with ⟨h1, h2⟩ | ⟨h1, h2⟩
        · exact ⟨.inl h1, .inr h2⟩
        · exact ⟨.inr h1, .inl h2⟩
      · rcases h with ⟨h1, h2⟩ | ⟨h1, h2⟩
        · exact ⟨.inl h1, .inl h2⟩
        · exact ⟨.inr h1, .inr h2⟩
    exact ⟨isNumber_of_class (classes.1.imp_right .inl), isNumber_of_class (classes.2.imp_right .inl)⟩
  rw [arith_numbers hnum.1 hnum.2]
  exact if_pos h

/-- Settles O34: each case is one branch of `arith`. -/
theorem signalingNanIsInvalid : Obligations.SignalingNanIsInvalid := by
  intro i s d e pops op hi hr hpc hd he
  obtain ⟨p, hpc⟩ := pcBits_of_ne hpc
  have ha := registerArith_of s hi
  obtain ⟨u, hb, hexec, hmem, hcompleted⟩ := ha.runs hr hpc
  generalize arithForm i = a at *
  have hbody := arithRegs_nonempty (op := a.op) (o := a.order) (p := p) (fin := a.fin) (s := u)
    ((hb.stEmpty d).trans hd) ((hb.stEmpty e).trans he)
  rw [hb.st, hb.st, hb.phys] at hbody
  have hquiet := drawC320_quiet u
  refine ⟨fun hdu heu hnan => ?_, fun hinvalid => ?_⟩
  · intro invalid
    have hsel := selectedNan_pair a.order hnan
    obtain ⟨hxu, hyu⟩ := (a.order.pair_and (fun x => x.isUnsupported = false) _ _).mpr ⟨hdu, heu⟩
    have hnan' := (a.order.pair_or (fun x => x.isNan = true) _ _).mpr hnan
    have hsnan : ((a.order.pair (s.st d) (s.st e)).1.isSnan || (a.order.pair (s.st d) (s.st e)).2.isSnan) = invalid := by
      cases a.order
      · rfl
      · exact Bool.or_comm _ _
    generalize a.order.pair (s.st d) (s.st e) = xy at hbody hsel hxu hyu hnan' hsnan
    cases hinv : invalid with
    | true =>
      rw [hbody, arith_snan hxu hyu (hsnan.trans hinv)] at hexec hmem hcompleted
      obtain ⟨hraised, hmasked, hunmasked⟩ := hb.respond_put hquiet ha.pops .ie (s.phys d) (nanResult xy.1 xy.2)
      refine ⟨_, hexec, hraised, hmem, hcompleted, fun hm => ?_, fun _ => hunmasked⟩
      obtain ⟨hreg, hregs, hpopped, -⟩ := hmasked (hm.resolve_left nofun)
      rw [hreg]
      exact ⟨hsel, hregs, hpopped⟩
    | false =>
      rw [hbody, arith_qnan hxu hyu (hsnan.trans hinv) hnan'] at hexec hmem hcompleted
      obtain ⟨hraised, hreg, hregs, hpopped, -⟩ := hb.putExact hquiet ha.pops (s.phys d) (nanResult xy.1 xy.2)
      refine ⟨_, hexec, hraised, hmem, hcompleted, fun _ => ?_, nofun⟩
      rw [hreg]
      exact ⟨hsel, hregs, hpopped⟩
  · have hresp : arithRegs a.op a.order d e a.fin p u =
        u.drawC320.respond .ie fun u => a.fin (u.putExact (s.phys d) indefinite) := by
      rw [hbody]
      rcases or_assoc.mpr hinvalid with h | h
      · exact arith_unsupported ((a.order.pair_or (fun x => x.isUnsupported = true) _ _).mpr h)
      · refine arith_invalid ?_
        rw [ha.invalid] at h
        cases a.order with
        | straight => exact h
        | reversed => rwa [ArithOp.invalid_comm]
    rw [hresp] at hexec hmem hcompleted
    obtain ⟨hraised, hmasked, hunmasked⟩ := hb.respond_put hquiet ha.pops .ie (s.phys d) indefinite
    refine ⟨_, hexec, hraised, hmem, hcompleted, fun hm => ?_, hunmasked⟩
    obtain ⟨hreg, hregs, hpopped, -⟩ := hmasked hm
    exact ⟨hreg, hregs, hpopped⟩

/-- O35's first part: an empty register of one of the eighteen forms (R230 (d)). -/
theorem registerArith_underflow {i : Instr} {s : State} {d e : Fin 8} {pops : Nat} {op : ℚ → ℚ → ℚ}
    (hi : registerArithmetic i = some (d, e, pops, op)) (hr : s.Ready true) (hpc : pcBits s.cw ≠ none)
    (hempty : s.stEmpty d = true ∨ s.stEmpty e = true) :
    ∃ t, exec i s = .next t ∧ s.StackFaulted t false ∧ s.KeepsMemory t [] ∧ s.CompletedNumeric t i
      ∧ (masked s.cw .ie = true →
          t.reg (s.phys d) = indefinite ∧ s.KeepsRegs t [s.phys d] ∧ s.Popped t (some (s.phys d)) pops)
      ∧ (masked s.cw .ie = false → s.KeepsRegs t [] ∧ s.Popped t none 0) := by
  obtain ⟨p, hpc⟩ := pcBits_of_ne hpc
  have ha := registerArith_of s hi
  obtain ⟨u, hb, hexec, hmem, hcompleted⟩ := ha.runs hr hpc
  rw [← hb.stEmpty, ← hb.stEmpty] at hempty
  rw [arithRegs_empty hempty, hb.phys] at hexec hmem hcompleted
  obtain ⟨hfault, hmasked, hunmasked⟩ := hb.faultThen_put (drawC320_quiet u) ha.pops false (s.phys d) indefinite
  exact ⟨_, hexec, hfault, hmem, hcompleted, hmasked, hunmasked⟩

end Sys2Proof.Machine

/-! # Pushes (O20, O24) and the rest of the register moves (O25) -/

namespace Sys2Proof.Machine

/-! ## Bodies that stay in some frame -/

/-- The body changes nothing of memory, of the processor or of the pointers, whatever registers it writes. -/
def Framed (body : State → State) : Prop := ∀ u, Frame.Holds ⟨u, List.finRange 8, [], [.pe]⟩ (body u)

theorem framed_of_leads {body : State → State} (h : ∀ u, Frame.Leads ⟨u, List.finRange 8, [], [.pe]⟩ body) :
    Framed body := fun u => h u u frame_start

theorem RunsTo.framed {i : Instr} {s : State} {r : Result} {body : State → State} (h : RunsTo r i s body)
    (hf : Framed body) :
    ∃ u, s.Begun u i ∧ r = .next ((body u).advance i) ∧ s.KeepsMemory ((body u).advance i) []
      ∧ s.CompletedNumeric ((body u).advance i) i := by
  obtain ⟨u, hb, hexec⟩ := h
  exact ⟨u, hb, hexec, hb.frame (hf u)⟩

theorem State.OperandReachable.load {s : State} {i : Instr} {m : MemOp} {n : Nat} (h : s.OperandReachable i)
    (hacc : s.access i = some ⟨m, false, n⟩) : s.Reachable i.prefixes m false n := h _ hacc

/-! ## The instructions that only push (R201, R202, R207, R210, R321) -/

section PushBodies

variable {u : State} {x : Ext} {w : Nat} {f : Fmt} {j : Fin 8}

theorem framed_loadPlain (x : Ext) : Framed (loadPlain x) := framed_of_leads fun _ => loadPlain_leads (List.mem_finRange _)
theorem framed_loadConst (c : Mag) : Framed (loadConst c) := framed_of_leads fun _ => loadConst_leads (List.mem_finRange _)
theorem framed_loadSt (j : Fin 8) : Framed (loadSt j) := framed_of_leads fun _ => loadSt_leads (List.mem_finRange _)
theorem framed_loadBcd (w : Nat) : Framed (loadBcd w) := framed_of_leads fun _ => loadBcd_leads (List.mem_finRange _)
theorem framed_loadReal (f : Fmt) (w : Nat) : Framed (loadReal f w) :=
  framed_of_leads fun _ => loadReal_leads (List.mem_finRange _)

/-- The overflow of a push (R14, R410). -/
def pushOverflow (u : State) : State := u.drawC320ClearC1.faultThen true fun s => s.push indefinite

theorem loadPlain_full (h : u.full7 = true) : loadPlain x u = pushOverflow u := if_pos h
theorem loadConst_full {c : Mag} (h : u.full7 = true) : loadConst c u = pushOverflow u := if_pos h
theorem loadReal_full (h : u.full7 = true) : loadReal f w u = pushOverflow u := if_pos h
theorem loadBcd_full (h : u.full7 = true) : loadBcd w u = pushOverflow u := if_pos h
theorem loadSt_full (he : u.stEmpty j = false) (h : u.full7 = true) : loadSt j u = pushOverflow u :=
  (if_neg (Bool.eq_false_iff.mp he)).trans (if_pos h)

theorem loadPlain_room (h : u.full7 = false) : loadPlain x u = u.drawC320ClearC1.push x :=
  if_neg (Bool.eq_false_iff.mp h)
theorem loadSt_room (he : u.stEmpty j = false) (h : u.full7 = false) :
    loadSt j u = u.drawC320ClearC1.push (u.st j) :=
  (if_neg (Bool.eq_false_iff.mp he)).trans (if_neg (Bool.eq_false_iff.mp h))

end PushBodies

/-- A push that is executed. -/
theorem State.Begun.pushed {s u w : State} {i : Instr} {v : Ext} (hb : s.Begun u i) (hw : u.Steady w)
    (hc1 : w.sw.c1 = false) (hmem : s.KeepsMemory ((w.push v).advance i) [])
    (hcompleted : s.CompletedNumeric ((w.push v).advance i) i) : s.Pushed ((w.push v).advance i) i v := by
  obtain ⟨htop, hst, hempty, hregs, htags⟩ := push_spec w v
  rw [hw.phys, hb.phys] at hregs htags
  refine ⟨?_, hst, hempty, hc1, fun k hk => ?_, fun k hk => ?_, hmem, hcompleted⟩
  · rw [← hb.sw, ← hw.top]
    exact htop
  · exact (hregs k hk).trans ((hw.reg k).trans (hb.reg k))
  · exact (htags k hk).trans ((hw.isEmpty k).trans (hb.isEmpty k))

/-- A push that raises nothing. -/
theorem State.Begun.pushed_quiet {s u : State} {i : Instr} {v : Ext} (hb : s.Begun u i)
    (hmem : s.KeepsMemory ((u.drawC320ClearC1.push v).advance i) [])
    (hcompleted : s.CompletedNumeric ((u.drawC320ClearC1.push v).advance i) i) :
    s.Pushed ((u.drawC320ClearC1.push v).advance i) i v ∧ s.Raised ((u.drawC320ClearC1.push v).advance i) [] :=
  ⟨hb.pushed (drawC320ClearC1_quiet u).toSteady rfl hmem hcompleted, hb.raised (raised_nil u)⟩

/-- Settles O20: `loadPlain` and `loadSt` push the bits they are given. -/
theorem fldExtendedAndRegisterPushTheirBits : Obligations.FldExtendedAndRegisterPushTheirBits := by
  intro q s hr hfull
  refine ⟨fun m hreach => ?_, fun j hj => ?_⟩
  · obtain ⟨u, hb, hexec, hmem, hcompleted⟩ := (runs_numLoad (i := .fldM80 q m) (m := m) (n := 10)
      (body := fun bs => loadPlain (extOfBytes bs)) rfl rfl hr hreach).framed (framed_loadPlain _)
    rw [loadPlain_room (hb.full7.trans hfull)] at hexec hmem hcompleted
    exact ⟨_, hexec, hb.pushed_quiet hmem hcompleted⟩
  · obtain ⟨u, hb, hexec, hmem, hcompleted⟩ := (runs_numReg (i := .fldSti q j) (body := loadSt j) rfl rfl hr).framed
      (framed_loadSt j)
    rw [loadSt_room ((hb.stEmpty j).trans hj) (hb.full7.trans hfull), hb.st] at hexec hmem hcompleted
    exact ⟨_, hexec, hb.pushed_quiet hmem hcompleted⟩

/-- What the fifteen instructions do when there is no room. -/
theorem pushesOnly_full {i : Instr} {s : State} {r : Result} (hexec : exec i s = r) (hi : pushesOnly i = true)
    (hr : s.Ready true) (hop : s.OperandReachable i) (hfull : s.full7 = true)
    (hsrc : ∀ p j, i = .fldSti p j → s.stEmpty j = false) :
    ∃ body, RunsTo r i s body ∧ Framed body ∧ ∀ u, s.Begun u i → body u = pushOverflow u := by
  have full : ∀ {u}, s.Begun u i → u.full7 = true := fun hb => hb.full7.trans hfull
  unfold exec at hexec
  cases i with
  | fldM32 p m => exact ⟨_, runs_numLoad hexec rfl hr (hop.load rfl),
      framed_loadReal _ _, fun u hb => loadReal_full (full hb)⟩
  | fldM64 p m => exact ⟨_, runs_numLoad hexec rfl hr (hop.load rfl),
      framed_loadReal _ _, fun u hb => loadReal_full (full hb)⟩
  | fldM80 p m => exact ⟨_, runs_numLoad hexec rfl hr (hop.load rfl),
      framed_loadPlain _, fun u hb => loadPlain_full (full hb)⟩
  | fildI16 p m | fildI32 p m | fildI64 p m =>
    exact ⟨_, runs_numLoad hexec rfl hr (hop.load rfl),
      framed_loadPlain _, fun u hb => loadPlain_full (full hb)⟩
  | fbld p m => exact ⟨_, runs_numLoad hexec rfl hr (hop.load rfl),
      framed_loadBcd _, fun u hb => loadBcd_full (full hb)⟩
  | fldSti p j => exact ⟨_, runs_numReg hexec rfl hr, framed_loadSt j,
      fun u hb => loadSt_full ((hb.stEmpty j).trans (hsrc p j rfl)) (full hb)⟩
  | fldz p => exact ⟨_, runs_numReg hexec rfl hr, framed_loadPlain _,
      fun u hb => loadPlain_full (full hb)⟩
  | fld1 p => exact ⟨_, runs_numReg hexec rfl hr, framed_loadPlain _,
      fun u hb => loadPlain_full (full hb)⟩
  | fldpi p => exact ⟨_, runs_numReg hexec rfl hr, framed_loadConst _,
      fun u hb => loadConst_full (full hb)⟩
  | fldl2t p => exact ⟨_, runs_numReg hexec rfl hr, framed_loadConst _,
      fun u hb => loadConst_full (full hb)⟩
  | fldl2e p => exact ⟨_, runs_numReg hexec rfl hr, framed_loadConst _,
      fun u hb => loadConst_full (full hb)⟩
  | fldlg2 p => exact ⟨_, runs_numReg hexec rfl hr, framed_loadConst _,
      fun u hb => loadConst_full (full hb)⟩
  | fldln2 p => exact ⟨_, runs_numReg hexec rfl hr, framed_loadConst _,
      fun u hb => loadConst_full (full hb)⟩
  | _ => cases hi

/-- Settles O24: all fifteen end in `pushOverflow`. -/
theorem pushOntoAFullRegisterOverflows : Obligations.PushOntoAFullRegisterOverflows := by
  intro i s hi hr hop hfull hsrc
  obtain ⟨body, hruns, hframed, hbody⟩ := pushesOnly_full rfl hi hr hop hfull hsrc
  obtain ⟨u, hb, hexec, hmem, hcompleted⟩ := hruns.framed hframed
  have hq := drawC320ClearC1_quiet u
  have hfault : s.StackFaulted (u.drawC320ClearC1.stackFault true) true :=
    hb.stackFaulted (hq.stackFaulted (stackFault_spec _ true))
  have hsteady : u.Steady (u.drawC320ClearC1.stackFault true) := hq.toSteady.stackFault true
  rw [hbody u hb] at hexec hmem hcompleted
  refine ⟨_, hexec, ?_⟩
  rcases faultThen_cases u.drawC320ClearC1 true fun s => s.push indefinite with ⟨hm, e⟩ | ⟨hm, e⟩
  · rw [pushOverflow, e] at hmem hcompleted ⊢
    have hm : masked s.cw .ie = true := hb.cw ▸ hm
    obtain ⟨htop, hst, -, hregs, htags⟩ := push_spec (u.drawC320ClearC1.stackFault true) indefinite
    rw [hsteady.phys, hb.phys] at hregs htags
    refine ⟨stackFaulted_of_errors hfault rfl rfl, hcompleted, hmem, fun _ => ⟨?_, hst, ?_, ?_⟩,
      fun hn => by rw [hm] at hn; cases hn⟩
    · rw [← hb.sw]
      exact htop
    · exact fun k hk => (hregs k hk).trans ((hsteady.reg k).trans (hb.reg k))
    · intro k _
      by_cases hk : k = s.phys 7
      · have hold : s.isEmpty k = false := by rw [hk]; exact Bool.not_eq_true' _ ▸ hfull
        rw [hold, hk, ← hb.phys, phys_seven]
        exact (isEmpty_putReg ((u.drawC320ClearC1.stackFault true).setTop _) _ _ indefinite).trans (if_pos rfl)
      · exact (htags k (by simpa using hk)).trans ((hsteady.isEmpty k).trans (hb.isEmpty k))
  · rw [pushOverflow, e] at hmem hcompleted ⊢
    have hm : masked s.cw .ie = false := hb.cw ▸ hm
    obtain ⟨hregs, htags, -⟩ := hsteady.left
    refine ⟨hfault, hcompleted, hmem, fun hn => by (rw [hm] at hn; cases hn), fun _ => ⟨?_, hb.keepsRegs hregs, hb.keepsTags htags⟩⟩
    rw [← hb.sw]
    exact hsteady.top

end Sys2Proof.Machine

/-! # Stores to memory and moves between registers (O25) -/

namespace Sys2Proof.Machine

/-! ## Stores -/

/-- `r` is what becomes of a store of `n` bytes that is executed: its bytes are stored, if its body answers any. -/
def StoresTo (r : Result) (i : Instr) (m : MemOp) (n : Nat) (s : State) (body : State → Stored) : Prop :=
  ∃ u, s.Begun u i ∧ (∀ v, body u = (v, none) → r = .next (v.advance i))
    ∧ ∀ v bs, body u = (v, some bs) → r = .next ((v.store (s.placeAddrs (s.place i.prefixes m) n) bs).advance i)

theorem storesTo_numStore {i : Instr} {s : State} {r : Result} {m : MemOp} {n : Nat} {body : State → Stored}
    (h : numStore i m n s body = r) (hacc : s.access i = some ⟨m, true, n⟩) (hr : s.Ready true)
    (hreach : s.Reachable i.prefixes m true n) : StoresTo r i m n s body := by
  refine ⟨_, begun_started hacc, fun v hv => ?_, fun v bs hv => ?_⟩
  · rw [← h, numStore, escStore_of_ready (k := .numeric) i m n hr hreach, hv]
  · rw [← h, numStore, escStore_of_ready (k := .numeric) i m n hr hreach, hv]

/-- The body changes nothing of memory, of the processor or of the pointers. -/
def FramedStore (body : State → Stored) : Prop := ∀ u, Frame.Holds ⟨u, List.finRange 8, List.finRange 8, [.pe]⟩ (body u).1

theorem framedStore_of_leads {body : State → Stored}
    (h : ∀ u, Frame.Leads ⟨u, List.finRange 8, List.finRange 8, [.pe]⟩ fun t => (body t).1) : FramedStore body :=
  fun u => h u u frame_start

/-- A store that is done. -/
theorem State.Begun.storedAs {s u v : State} {i : Instr} {m : MemOp} {n pops : Nat} {bs : List Byte}
    {results retagged : List (Fin 8)} {loose : List Exc} (hb : s.Begun u i) (hs : s.Sound)
    (hv : Frame.Holds ⟨u, results, retagged, loose⟩ v) (hregs : s.KeepsRegs v []) (hpopped : s.Popped v none pops)
    (hl : bs.length = n) (hn : n ≤ 2 ^ 16) :
    storedAs s ((v.store (s.placeAddrs (s.place i.prefixes m) n) bs).advance i) i m n (leNat bs) pops := by
  have hmem : v.mem = s.mem := hv.mem.trans hb.mem
  refine ⟨congrArg leNat (readBytes_store s _ (by rw [hmem]; exact hs.1) hn hl), ?_, hregs, hpopped,
    hb.completed (v := v.store _ bs) hv.control hv.fdp⟩
  exact keepsMemory_of_store (bs := bs) (congrArg (writeBytes · _ _) hmem)

/-- A store that is not done. -/
theorem State.Begun.notStored {s u v : State} {i : Instr} {results retagged : List (Fin 8)} {loose : List Exc}
    (hb : s.Begun u i) (hv : Frame.Holds ⟨u, results, retagged, loose⟩ v) (hw : u.Steady v) :
    s.KeepsMemory (v.advance i) [] ∧ s.KeepsRegs (v.advance i) [] ∧ s.Popped (v.advance i) none 0
      ∧ s.CompletedNumeric (v.advance i) i := by
  obtain ⟨hregs, -, hpopped⟩ := hw.left
  obtain ⟨hmem, hcompleted⟩ := hb.frame hv
  exact ⟨hmem, hb.keepsRegs hregs, hb.popped hpopped, hcompleted⟩

/-! ## Moves between registers (R203, R204, R206) -/

theorem extToNat_lt (x : Ext) : extToNat x < 256 ^ 10 := by
  have h1 := x.sign.toNat_le
  have h2 := x.exp.isLt
  have h3 := x.sig.isLt
  unfold extToNat
  omega

theorem leNat_extBytes (x : Ext) : leNat (extBytes x) = extToNat x := by
  rw [extBytes, leNat_leBytes, Nat.mod_eq_of_lt (extToNat_lt x)]

section Bodies

variable {u : State} {j : Fin 8} {fin : State → State}

theorem storeSt_nonempty (h : u.stEmpty 0 = false) :
    storeSt j fin u = fin (u.drawC320.putExact (u.phys j) (u.st 0)) := if_neg (Bool.eq_false_iff.mp h)

theorem storeSt_empty (h : u.stEmpty 0 = true) :
    storeSt j fin u = u.drawC320.faultThen false fun s => fin (s.putReg (u.phys j) indefinite) := if_pos h

theorem storeExt_nonempty (h : u.stEmpty 0 = false) :
    storeExt u = (u.drawC320ClearC1.pop, some (extBytes (u.st 0))) := if_neg (Bool.eq_false_iff.mp h)

theorem framed_storeSt (hf : ∀ F : Frame, F.start.phys 0 ∈ F.results ++ F.retagged → F.Leads fin) :
    Framed (storeSt j fin) :=
  framed_of_leads fun _ => storeSt_leads (List.mem_finRange _) (hf _ (List.mem_append_left _ (List.mem_finRange _)))

theorem framed_exchange : Framed (exchange j) :=
  framed_of_leads fun _ => exchange_leads (List.mem_finRange _) (List.mem_finRange _)

theorem framedStore_storeExt : FramedStore storeExt :=
  framedStore_of_leads fun _ => storeExt_leads (frame_leads_pop (List.mem_append_left _ (List.mem_finRange _)))

/-- An exchange of two registers, neither of them empty. -/
theorem exchange_nonempty (h0 : u.stEmpty 0 = false) (hj : u.stEmpty j = false) :
    exchange j u = (u.drawC320ClearC1.putReg (u.phys 0) (u.st j)).putReg (u.phys j) (u.st 0) := by
  have e0 : u.drawC320ClearC1.stEmpty 0 = false := h0
  have ej : u.drawC320ClearC1.stEmpty j = false := hj
  simp only [exchange, e0, ej, Bool.or_self, Bool.false_eq_true, if_false]
  rfl

end Bodies

/-- Two registers written one after the other: the second wins where they are the same. -/
theorem State.Steady.putTwo {s t : State} (h : s.Steady t) (a b : Fin 8) (x y : Ext) :
    let v := (t.putReg a x).putReg b y
    (∀ k, v.reg k = if k = b then y else if k = a then x else s.reg k)
      ∧ ∀ k, v.isEmpty k = if k = b then false else if k = a then false else s.isEmpty k := by
  refine ⟨fun k => ?_, fun k => ?_⟩
  · rw [reg_putReg, reg_putReg, h.reg]
  · rw [isEmpty_putReg, isEmpty_putReg, h.isEmpty]

theorem st_of_top {s t : State} (h : t.sw.top = s.sw.top) (j : Fin 8) : t.st j = t.reg (s.phys j) := by
  rw [State.st, State.phys, h]
  rfl

theorem phys_injective (s : State) {i j : Fin 8} : s.phys i = s.phys j ↔ i = j := add_right_inj _

theorem exec_storeSt {q : List Prefix} {j : Fin 8} {s : State} {i : Instr} {pops : Nat}
    (h : (i = .fstSti q j ∧ pops = 0) ∨ (i = .fstpSti q j ∧ pops = 1)) :
    ∃ fin, numReg i s (storeSt j fin) = exec i s ∧ s.access i = none ∧ Pops fin pops ∧ Framed (storeSt j fin) := by
  rcases h with ⟨rfl, rfl⟩ | ⟨rfl, rfl⟩
  · exact ⟨id, rfl, rfl, pops_id, framed_storeSt fun _ _ => frame_leads_id⟩
  · exact ⟨State.pop, rfl, rfl, pops_pop, framed_storeSt fun _ => frame_leads_pop⟩

/-- Settles O25: the bodies put and store the bits of `st` as they are. -/
theorem movesKeepEveryBit : Obligations.MovesKeepEveryBit := by
  intro q j m s hs hr h0
  refine ⟨fun i pops hi => ?_, fun hj => ?_, fun hreach => ?_⟩
  · obtain ⟨fin, hbody, hacc, hpops, hframed⟩ := exec_storeSt (s := s) hi
    obtain ⟨u, hb, hexec, hmem, hcompleted⟩ := (runs_numReg hbody hacc hr).framed hframed
    rw [storeSt_nonempty ((hb.stEmpty 0).trans h0), hb.phys, hb.st] at hexec hmem hcompleted
    obtain ⟨hraised, hreg, hregs, hpopped, hc1⟩ := hb.putExact (drawC320_quiet u) hpops (s.phys j) (s.st 0)
    exact ⟨_, hexec, hreg, hregs, hpopped, hc1, hraised, hmem, hcompleted⟩
  · obtain ⟨u, hb, hexec, hmem, hcompleted⟩ := (runs_numReg (i := .fxch q j) (body := exchange j) rfl rfl hr).framed
      framed_exchange
    rw [exchange_nonempty ((hb.stEmpty 0).trans h0) ((hb.stEmpty j).trans hj), hb.st, hb.st, hb.phys, hb.phys]
      at hexec hmem hcompleted
    obtain ⟨hreg, hempty⟩ := (drawC320ClearC1_quiet u).toSteady.putTwo (s.phys 0) (s.phys j) (s.st j) (s.st 0)
    have htop : u.sw.top = s.sw.top := by rw [hb.sw]
    have hst := st_of_top (s := s) (t := (u.drawC320ClearC1.putReg (s.phys 0) (s.st j)).putReg (s.phys j) (s.st 0)) htop
    refine ⟨_, hexec, ?_, ?_, fun k hk => ?_, fun k _ => ?_, htop, rfl, hb.raised (raised_nil u), hmem, hcompleted⟩
    · refine (hst 0).trans ((hreg _).trans ?_)
      split
      next h => rw [← (phys_injective s).mp h]
      next => exact if_pos rfl
    · exact (hst j).trans ((hreg _).trans (if_pos rfl))
    · simp only [List.mem_cons, List.not_mem_nil, or_false, not_or] at hk
      exact (hreg k).trans ((if_neg hk.2).trans ((if_neg hk.1).trans (hb.reg k)))
    · refine (hempty k).trans ?_
      split
      next h => rw [h]; exact hj.symm
      split
      next h => rw [h]; exact h0.symm
      next => exact hb.isEmpty k
  · obtain ⟨u, hb, -, hstored⟩ := storesTo_numStore (i := .fstpM80 q m) (m := m) (n := 10) (body := storeExt) rfl rfl hr hreach
    have hbody := storeExt_nonempty ((hb.stEmpty 0).trans h0)
    have hframe := framedStore_storeExt u
    obtain ⟨hregs, hpopped⟩ := (drawC320ClearC1_quiet u).toSteady.pop pops_pop
    rw [hbody, hb.st] at hframe
    rw [hb.st] at hbody
    refine ⟨_, hstored _ _ hbody, ?_, rfl, hb.raised (raised_nil u)⟩
    rw [← leNat_extBytes]
    exact hb.storedAs hs hframe (hb.keepsRegs hregs) (hb.popped hpopped) (leBytes_length 10 _) (by decide)

end Sys2Proof.Machine

/-! # Stack underflow (O35)

An empty operand ends every body in `faultThen`; the families differ in the masked response alone, which is one of
`UnderflowResponse`. -/

namespace Sys2Proof.Machine

/-! ## The masked responses (R202 to R204, R230 (d), R245 to R250, R280 (d), R301 (b)) -/

/-- A response writes the indefinite to the registers of `results`, pops and pushes, and changes no other bit of the
status word. -/
def UnderflowResponse (u : State) (resp : State → State) (results : List (Fin 8)) (pops pushes : Nat) : Prop :=
  ∀ t, u.Steady t →
    (∀ k ∈ results, (resp t).reg k = indefinite ∧ ((k - u.sw.top).val < pops ∨ (resp t).isEmpty k = false))
      ∧ (∀ k : Fin 8, (k - u.sw.top).val < pops → (resp t).isEmpty k = true)
      ∧ (resp t).sw = { t.sw with top := u.sw.top + Fin.ofNat 8 pops - Fin.ofNat 8 pushes }

section Responses

variable {u : State} {fin : State → State} {n : Nat}

theorem fin8_sub_zero (a : Fin 8) : a - Fin.ofNat 8 0 = a := sub_zero a

theorem underflowResponse_put (hf : Pops fin n) (k : Fin 8) :
    UnderflowResponse u (fun t => fin (t.putReg k indefinite)) [k] n 0 := by
  intro t ht
  obtain ⟨hreg, -, -, hempty⟩ := ht.put hf k indefinite
  have hsw := (hf (t.putReg k indefinite)).2.1
  refine ⟨fun j hj => ?_, fun j hj => (hempty j).trans (if_pos hj), ?_⟩
  · rw [List.mem_singleton.mp hj]
    refine ⟨hreg, ?_⟩
    by_cases hk : (k - u.sw.top).val < n
    · exact .inl hk
    · exact .inr ((hempty k).trans ((if_neg hk).trans (if_pos rfl)))
  · rw [hsw, fin8_sub_zero, ← ht.top]
    rfl

theorem underflowResponse_pop (hf : Pops fin n) : UnderflowResponse u fin [] n 0 := by
  intro t ht
  obtain ⟨-, -, hempty⟩ := ht.pop hf
  refine ⟨fun j hj => absurd hj List.not_mem_nil, fun j hj => (hempty j).trans (if_pos hj), ?_⟩
  rw [(hf t).2.1, fin8_sub_zero, ← ht.top]

theorem underflowResponse_push : UnderflowResponse u (fun t => t.push indefinite) [u.phys 7] 0 1 := by
  intro t ht
  obtain ⟨htop, hst, hempty, -, -⟩ := push_spec t indefinite
  have hphys : (t.push indefinite).phys 0 = u.phys 7 := by
    rw [State.phys, htop, ht.top, add_zero, phys_seven]
  refine ⟨fun j hj => ?_, fun j hj => absurd hj (Nat.not_lt_zero _), ?_⟩
  · rw [List.mem_singleton.mp hj, ← hphys]
    exact ⟨hst, .inr hempty⟩
  · rw [show Fin.ofNat 8 0 = 0 from rfl, add_zero, ← ht.top]
    rfl

theorem phys_zero_ne_seven (u : State) : u.phys 0 ≠ u.phys 7 := fun h => absurd ((add_right_inj _).mp h) (by decide)

theorem underflowResponse_putPush :
    UnderflowResponse u (fun t => (t.putReg (u.phys 0) indefinite).push indefinite) [u.phys 0, u.phys 7] 0 1 := by
  intro t ht
  have htop : (t.putReg (u.phys 0) indefinite).sw.top = u.sw.top := ht.top
  obtain ⟨hnew, hst, hempty, hregs, htags⟩ := push_spec (t.putReg (u.phys 0) indefinite) indefinite
  have hphys : ((t.putReg (u.phys 0) indefinite).push indefinite).phys 0 = u.phys 7 := by
    rw [State.phys, hnew, htop, add_zero, phys_seven]
  have h7 : (t.putReg (u.phys 0) indefinite).phys 7 = u.phys 7 := congrArg (· + 7) htop
  have hnot : u.phys 0 ∉ [(t.putReg (u.phys 0) indefinite).phys 7] := by
    rw [h7]
    simpa using phys_zero_ne_seven u
  refine ⟨fun j hj => ?_, fun j hj => absurd hj (Nat.not_lt_zero _), ?_⟩
  · simp only [List.mem_cons, List.not_mem_nil, or_false] at hj
    rcases hj with rfl | rfl
    · refine ⟨(hregs _ hnot).trans ?_, .inr ((htags _ hnot).trans ?_)⟩
      · rw [reg_putReg, if_pos rfl]
      · rw [isEmpty_putReg, if_pos rfl]
    · rw [← hphys]
      exact ⟨hst, .inr hempty⟩
  · rw [show Fin.ofNat 8 0 = 0 from rfl, add_zero, ← ht.top]
    rfl

end Responses

/-! ## Bodies that underflow -/

/-- A body that ends in a stack underflow when it starts in `u`; `code` says that it is a comparison, which is
unordered. -/
def Underflows (u v : State) (results : List (Fin 8)) (pops pushes : Nat) (code : Bool) : Prop :=
  ∃ w resp, u.Quiet w ∧ v = w.faultThen false resp ∧ UnderflowResponse u resp results pops pushes
    ∧ (code = true → w.sw.c3 = true ∧ w.sw.c2 = true ∧ w.sw.c0 = true)

/-- What a stack underflow leaves. -/
structure UnderflowedTo (s t : State) (results : List (Fin 8)) (pops pushes : Nat) (code : Bool) : Prop where
  fault : s.StackFaulted t false
  code : code = true → t.sw.c3 = true ∧ t.sw.c2 = true ∧ t.sw.c0 = true
  unmasked : masked s.cw .ie = false → s.KeepsRegs t [] ∧ s.KeepsTags t [] ∧ t.sw.top = s.sw.top
  results : masked s.cw .ie = true →
    ∀ k ∈ results, t.reg k = indefinite ∧ ((k - s.sw.top).val < pops ∨ t.isEmpty k = false)
  popped : masked s.cw .ie = true → ∀ k : Fin 8, (k - s.sw.top).val < pops → t.isEmpty k = true
  top : masked s.cw .ie = true → t.sw.top = s.sw.top + Fin.ofNat 8 pops - Fin.ofNat 8 pushes

theorem Underflows.spec {u v : State} {results : List (Fin 8)} {pops pushes : Nat} {code : Bool}
    (h : Underflows u v results pops pushes code) : UnderflowedTo u v results pops pushes code := by
  obtain ⟨w, resp, hq, hv, hresp, hcode⟩ := h
  have hfault : u.StackFaulted (w.stackFault false) false := hq.stackFaulted (stackFault_spec w false)
  have hsteady : u.Steady (w.stackFault false) := hq.toSteady.stackFault false
  rcases faultThen_cases w false resp with ⟨hm, e⟩ | ⟨hm, e⟩
  · rw [hv, e]
    rw [hq.cw] at hm
    obtain ⟨hres, hpop, hsw⟩ := hresp _ hsteady
    exact ⟨stackFaulted_of_errors hfault (by rw [hsw]; rfl) (by rw [hsw]), by rw [hsw]; exact hcode,
      fun hn => by (rw [hm] at hn; cases hn), fun _ => hres, fun _ => hpop, fun _ => by rw [hsw]⟩
  · rw [hv, e]
    rw [hq.cw] at hm
    obtain ⟨hregs, htags, -⟩ := hsteady.left
    exact ⟨hfault, hcode, fun _ => ⟨hregs, htags, hsteady.top⟩, fun hn => by (rw [hm] at hn; cases hn),
      fun hn => by (rw [hm] at hn; cases hn), fun hn => by (rw [hm] at hn; cases hn)⟩

theorem State.Begun.underflowed {s u v : State} {i : Instr} {results : List (Fin 8)} {pops pushes : Nat} {code : Bool}
    (hb : s.Begun u i) (h : UnderflowedTo u v results pops pushes code) : UnderflowedTo s v results pops pushes code := by
  obtain ⟨h1, h2, h3, h4, h5, h6⟩ := h
  rw [hb.cw] at h3 h4 h5 h6
  rw [hb.sw] at h3 h4 h5 h6
  refine ⟨hb.stackFaulted h1, h2, fun hm => ?_, h4, h5, h6⟩
  obtain ⟨hregs, htags, htop⟩ := h3 hm
  exact ⟨hb.keepsRegs hregs, hb.keepsTags htags, htop⟩

section Bodies

variable {u : State} {fin : State → State} {n : Nat}

theorem oneOperand_underflows {dup go : Ext → State → State} {w : State} {results : List (Fin 8)} {pushes : Nat}
    (hq : u.Quiet w) (h : u.stEmpty 0 = true)
    (hresp : UnderflowResponse u (fun t => dup indefinite (t.putReg (u.phys 0) indefinite)) results 0 pushes) :
    Underflows u (oneOperand dup go w) results 0 pushes false := by
  refine ⟨w, _, hq, if_pos ((hq.stEmpty 0).trans h), ?_, nofun⟩
  rwa [hq.phys]

theorem oneOperandPush_underflows {go : Ext → State → State} {w : State} (hq : u.Quiet w) (h : u.stEmpty 0 = true) :
    Underflows u (oneOperandPush go w) [u.phys 0, u.phys 7] 0 1 false := by
  have hne : ¬ (!w.stEmpty 0 && w.full7) = true := by simp [hq.stEmpty, h]
  rw [oneOperandPush, if_neg hne]
  exact oneOperand_underflows hq h underflowResponse_putPush

theorem twoOperands_underflows {d : Fin 8} {put : State → Fin 8 → Ext → State} {go : Ext → Ext → State → State}
    {w : State} (hq : u.Quiet w) (hf : Pops fin n) (h : u.stEmpty 0 = true ∨ u.stEmpty 1 = true) :
    Underflows u (twoOperands d put fin go w) [u.phys d] n 0 false := by
  refine ⟨w, _, hq, if_pos (by simpa [hq.stEmpty] using h), ?_, nofun⟩
  rw [hq.phys]
  exact underflowResponse_put hf (u.phys d)

theorem arithMem_underflows {op : ArithOp} {o : Order} {y : Ext} {memden : Bool} {p : Nat} (h : u.stEmpty 0 = true) :
    Underflows u (arithMem op o y memden p u) [u.phys 0] 0 0 false :=
  ⟨u.drawC320, fun t => id (t.putReg (u.phys 0) indefinite), drawC320_quiet u, if_pos h,
    underflowResponse_put pops_id (u.phys 0), nofun⟩

theorem compareFault_underflows (hf : Pops fin n) : Underflows u (compareFault fin u) [] n 0 true :=
  ⟨u.unordered, fin, ⟨⟨rfl, rfl, rfl⟩, rfl, rfl⟩, rfl, underflowResponse_pop hf, fun _ => ⟨rfl, rfl, rfl⟩⟩

theorem compareMem_underflows {y : Ext} {memden : Bool} (hf : Pops fin n) (h : u.stEmpty 0 = true) :
    Underflows u (compareMem y memden fin u) [] n 0 true := by
  rw [compareMem, if_pos h]
  exact compareFault_underflows hf

theorem compareReg_underflows {j : Fin 8} {q : Bool} (hf : Pops fin n) (h : u.stEmpty 0 = true ∨ u.stEmpty j = true) :
    Underflows u (compareReg j q fin u) [] n 0 true := by
  rw [compareReg, if_pos (by simpa using h)]
  exact compareFault_underflows hf

theorem loadSt_underflows {j : Fin 8} (h : u.stEmpty j = true) : Underflows u (loadSt j u) [u.phys 7] 0 1 false :=
  ⟨u.drawC320ClearC1, _, drawC320ClearC1_quiet u, if_pos h, underflowResponse_push, nofun⟩

theorem storeSt_underflows {j : Fin 8} (hf : Pops fin n) (h : u.stEmpty 0 = true) :
    Underflows u (storeSt j fin u) [u.phys j] n 0 false :=
  ⟨u.drawC320, _, drawC320_quiet u, storeSt_empty h, underflowResponse_put hf (u.phys j), nofun⟩

end Bodies

theorem drawC30C2_quiet (s : State) : s.Quiet s.drawC30.drawC2 := ⟨⟨rfl, rfl, rfl⟩, rfl, rfl⟩
theorem drawC3210_quiet (s : State) : s.Quiet s.drawC3210 := ⟨⟨rfl, rfl, rfl⟩, rfl, rfl⟩

/-! ## The instructions -/

/-- The universal frame that the leading lemmas are used with. -/
theorem framed_of_leads' {body : State → State}
    (h : ∀ F : Frame, (∀ k, k ∈ F.results) → .pe ∈ F.loose → F.Leads body) : Framed body :=
  framed_of_leads fun _ => h _ List.mem_finRange (List.mem_singleton.mpr rfl)

/-- Each instruction of the list runs a body that underflows when one of the registers it needs is empty. -/
theorem underflowing_runs {i : Instr} {s : State} {r : Result} {needed : List (Fin 8)} {pops pushes : Nat}
    (hexec : exec i s = r) (hi : underflowing i = some (needed, pops, pushes)) (hr : s.Ready true)
    (hop : s.OperandReachable i) (hpc : (memoryArithmetic i).isSome = true ∨ (∃ p, i = .fsqrt p) → pcBits s.cw ≠ none)
    (hempty : ∃ j ∈ needed, s.stEmpty j = true) :
    ∃ body, RunsTo r i s body ∧ Framed body
      ∧ ∀ u, s.Begun u i → Underflows u (body u) (resultRegs u i) pops pushes (comparison i).isSome := by
  unfold exec at hexec
  have one : needed = [0] → ∀ {u}, s.Begun u i → u.stEmpty 0 = true := fun hn u hb => by
    obtain ⟨j, hj, he⟩ := hempty
    rw [hn, List.mem_singleton] at hj
    rw [hb.stEmpty, ← hj, he]
  have two : ∀ {j}, needed = [0, j] → ∀ {u}, s.Begun u i → u.stEmpty 0 = true ∨ u.stEmpty j = true := fun hn u hb => by
    obtain ⟨l, hl, he⟩ := hempty
    rw [hn] at hl
    simp only [List.mem_cons, List.not_mem_nil, or_false] at hl
    rw [hb.stEmpty, hb.stEmpty]
    rcases hl with rfl | rfl
    · exact .inl he
    · exact .inr he
  have top : ∀ {F : Frame} {k}, (∀ k, k ∈ F.results) → k ∈ F.results ++ F.retagged :=
    fun h => List.mem_append_left _ (h _)
  cases i with
  | faddM32 | fmulM32 | fsubM32 | fsubrM32 | fdivM32 | fdivrM32
  | faddM64 | fmulM64 | fsubM64 | fsubrM64 | fdivM64 | fdivrM64 =>
    cases hi
    obtain ⟨p, hpc⟩ := pcBits_of_ne (hpc (.inl rfl))
    exact ⟨_, runs_numLoadP hexec rfl hr (hop.load rfl) hpc, framed_of_leads' fun F h _ => arithReal_leads (h _) _ _,
      fun u hb => arithMem_underflows (one rfl hb)⟩
  | fiaddI16 | fimulI16 | fisubI16 | fisubrI16 | fidivI16 | fidivrI16
  | fiaddI32 | fimulI32 | fisubI32 | fisubrI32 | fidivI32 | fidivrI32 =>
    cases hi
    obtain ⟨p, hpc⟩ := pcBits_of_ne (hpc (.inl rfl))
    exact ⟨_, runs_numLoadP hexec rfl hr (hop.load rfl) hpc, framed_of_leads' fun F h _ => arithInt_leads (h _) _ _,
      fun u hb => arithMem_underflows (one rfl hb)⟩
  | fsqrt q =>
    cases hi
    obtain ⟨p, hpc⟩ := pcBits_of_ne (hpc (.inr ⟨q, rfl⟩))
    exact ⟨_, runs_numRegP hexec rfl hr hpc, framed_of_leads' fun F h _ => squareRoot_leads (h _) _,
      fun u hb => oneOperand_underflows (drawC320_quiet u) (one rfl hb) (underflowResponse_put pops_id _)⟩
  | frndint =>
    cases hi
    exact ⟨_, runs_numReg hexec rfl hr, framed_of_leads' fun F h _ => roundToInteger_leads (h _),
      fun u hb => oneOperand_underflows (drawC320_quiet u) (one rfl hb) (underflowResponse_put pops_id _)⟩
  | f2xm1 =>
    cases hi
    exact ⟨_, runs_numReg hexec rfl hr, framed_of_leads' fun F h hpe => exponential_leads (h _) hpe,
      fun u hb => oneOperand_underflows (drawC320_quiet u) (one rfl hb) (underflowResponse_put pops_id _)⟩
  | fsin =>
    cases hi
    exact ⟨_, runs_numReg hexec rfl hr, framed_of_leads' fun F h _ => sine_leads (h _),
      fun u hb => oneOperand_underflows (drawC30C2_quiet u) (one rfl hb) (underflowResponse_put pops_id _)⟩
  | fcos =>
    cases hi
    exact ⟨_, runs_numReg hexec rfl hr, framed_of_leads' fun F h _ => cosine_leads (h _),
      fun u hb => oneOperand_underflows (drawC30C2_quiet u) (one rfl hb) (underflowResponse_put pops_id _)⟩
  | fxtract =>
    cases hi
    exact ⟨_, runs_numReg hexec rfl hr, framed_of_leads' fun F h _ => extract_leads (h _) (h _),
      fun u hb => oneOperandPush_underflows (drawC320ClearC1_quiet u) (one rfl hb)⟩
  | fptan =>
    cases hi
    exact ⟨_, runs_numReg hexec rfl hr, framed_of_leads' fun F h _ => tangent_leads (h _) (h _),
      fun u hb => oneOperandPush_underflows (drawC30C2_quiet u) (one rfl hb)⟩
  | fsincos =>
    cases hi
    exact ⟨_, runs_numReg hexec rfl hr, framed_of_leads' fun F h _ => sineCosine_leads (h _) (h _),
      fun u hb => oneOperandPush_underflows (drawC30C2_quiet u) (one rfl hb)⟩
  | fscale =>
    cases hi
    exact ⟨_, runs_numReg hexec rfl hr, framed_of_leads' fun F h _ => scaleBy_leads (h _),
      fun u hb => twoOperands_underflows (drawC320_quiet u) pops_id (two rfl hb)⟩
  | fprem | fprem1 =>
    cases hi
    exact ⟨_, runs_numReg hexec rfl hr, framed_of_leads' fun F h _ => remainder_leads (h _),
      fun u hb => twoOperands_underflows (drawC3210_quiet u) pops_id (two rfl hb)⟩
  | fpatan =>
    cases hi
    exact ⟨_, runs_numReg hexec rfl hr, framed_of_leads' fun F h _ => arctangent_leads (h _) (frame_leads_pop (top h)),
      fun u hb => twoOperands_underflows (drawC320_quiet u) pops_pop (two rfl hb)⟩
  | fyl2x =>
    cases hi
    exact ⟨_, runs_numReg hexec rfl hr, framed_of_leads' fun F h _ => logarithm_leads (h _) (frame_leads_pop (top h)),
      fun u hb => twoOperands_underflows (drawC320_quiet u) pops_pop (two rfl hb)⟩
  | fyl2xp1 =>
    cases hi
    exact ⟨_, runs_numReg hexec rfl hr,
      framed_of_leads' fun F h hpe => logarithmPlusOne_leads (h _) (frame_leads_pop (top h)) hpe,
      fun u hb => twoOperands_underflows (drawC320_quiet u) pops_pop (two rfl hb)⟩
  | fcomM32 | fcomM64 =>
    cases hi
    exact ⟨_, runs_numLoad hexec rfl hr (hop.load rfl), framed_of_leads' fun F _ _ => compareReal_leads frame_leads_id _,
      fun u hb => compareMem_underflows pops_id (one rfl hb)⟩
  | fcompM32 | fcompM64 =>
    cases hi
    exact ⟨_, runs_numLoad hexec rfl hr (hop.load rfl),
      framed_of_leads' fun F h _ => compareReal_leads (frame_leads_pop (top h)) _,
      fun u hb => compareMem_underflows pops_pop (one rfl hb)⟩
  | ficomI16 | ficomI32 =>
    cases hi
    exact ⟨_, runs_numLoad hexec rfl hr (hop.load rfl), framed_of_leads' fun F _ _ => compareInt_leads frame_leads_id _,
      fun u hb => compareMem_underflows pops_id (one rfl hb)⟩
  | ficompI16 | ficompI32 =>
    cases hi
    exact ⟨_, runs_numLoad hexec rfl hr (hop.load rfl),
      framed_of_leads' fun F h _ => compareInt_leads (frame_leads_pop (top h)) _,
      fun u hb => compareMem_underflows pops_pop (one rfl hb)⟩
  | ftst =>
    cases hi
    exact ⟨_, runs_numReg hexec rfl hr, framed_of_leads' fun F _ _ => compareMem_leads frame_leads_id,
      fun u hb => compareMem_underflows pops_id (one rfl hb)⟩
  | fcomSti | fucomSti =>
    cases hi
    exact ⟨_, runs_numReg hexec rfl hr, framed_of_leads' fun F _ _ => compareReg_leads frame_leads_id,
      fun u hb => compareReg_underflows pops_id (two rfl hb)⟩
  | fcompSti | fucompSti =>
    cases hi
    exact ⟨_, runs_numReg hexec rfl hr, framed_of_leads' fun F h _ => compareReg_leads (frame_leads_pop (top h)),
      fun u hb => compareReg_underflows pops_pop (two rfl hb)⟩
  | fcompp | fucompp =>
    cases hi
    exact ⟨_, runs_numReg hexec rfl hr, framed_of_leads' fun F h _ => compareReg_leads (frame_leads_pop2 (top h) (top h)),
      fun u hb => compareReg_underflows pops_pop2 (two rfl hb)⟩
  | fldSti p j =>
    cases hi
    obtain ⟨l, hl, he⟩ := hempty
    exact ⟨_, runs_numReg hexec rfl hr, framed_of_leads' fun F h _ => loadSt_leads (h _),
      fun u hb => loadSt_underflows (by rw [hb.stEmpty, ← List.mem_singleton.mp hl, he])⟩
  | fstSti =>
    cases hi
    exact ⟨_, runs_numReg hexec rfl hr, framed_storeSt fun _ _ => frame_leads_id,
      fun u hb => storeSt_underflows pops_id (one rfl hb)⟩
  | fstpSti =>
    cases hi
    exact ⟨_, runs_numReg hexec rfl hr, framed_storeSt fun _ => frame_leads_pop,
      fun u hb => storeSt_underflows pops_pop (one rfl hb)⟩
  | _ => cases hi

theorem resultRegs_congr {s u : State} (h : ∀ j, u.phys j = s.phys j) (i : Instr) : resultRegs u i = resultRegs s i := by
  unfold resultRegs
  simp only [h]

/-- O35's second part. -/
theorem underflowing_spec {i : Instr} {s : State} {needed : List (Fin 8)} {pops pushes : Nat}
    (hi : underflowing i = some (needed, pops, pushes)) (hr : s.Ready true) (hop : s.OperandReachable i)
    (hpc : (memoryArithmetic i).isSome = true ∨ (∃ p, i = .fsqrt p) → pcBits s.cw ≠ none)
    (hempty : ∃ j ∈ needed, s.stEmpty j = true) :
    ∃ t, exec i s = .next t ∧ underflowed s t i ∧ s.KeepsMemory t []
      ∧ ((comparison i).isSome = true → t.sw.c3 = true ∧ t.sw.c2 = true ∧ t.sw.c0 = true)
      ∧ (masked s.cw .ie = true → indefiniteResults s t i pops pushes) := by
  obtain ⟨body, hruns, hframed, hbody⟩ := underflowing_runs rfl hi hr hop hpc hempty
  obtain ⟨u, hb, hexec, hmem, hcompleted⟩ := hruns.framed hframed
  have hspec := (hbody u hb).spec
  rw [resultRegs_congr hb.phys] at hspec
  obtain ⟨hfault, hcode, hunmasked, hresults, hpopped, htop⟩ := hb.underflowed hspec
  refine ⟨_, hexec, ⟨hfault, hcompleted, fun hm => ?_⟩, hmem, hcode, fun hm => ?_⟩
  · obtain ⟨hregs, htags, htop⟩ := hunmasked hm
    exact ⟨hregs, htags, htop, hmem⟩
  · rcases exec_ended hexec with h | h
    · obtain ⟨⟨⟨-, -, -, -, -, -, hlinks, -⟩, -⟩, -⟩ := hcompleted
      exact absurd hlinks h.links
    · exact ⟨hresults hm, hpopped hm, h.regs, h.tags, htop hm⟩

/-! ## Stores that underflow (R203, R204, R208, R209, R211) -/

/-- A store that is a stack underflow when ST is empty; masked, it pops and stores the bytes that `bytes` answers. -/
structure StoreUnderflow (s : State) (r : Result) (i : Instr) (m : MemOp) (n pops : Nat) (bytes : State → List Byte)
    (body : State → Stored) (fin : State → State) : Prop where
  stores : StoresTo r i m n s body
  framed : FramedStore body
  pops : Pops fin pops
  length : ∀ v, (bytes v).length = n
  size : n ≤ 2 ^ 16
  fault : ∀ u, u.stEmpty 0 = true → ∃ t, u.Quiet t ∧ body u = t.faultStore fun v => (fin v, some (bytes v))

theorem StoreUnderflow.spec {s : State} {r : Result} {i : Instr} {m : MemOp} {n pops : Nat}
    {bytes : State → List Byte} {body : State → Stored} {fin : State → State}
    (h : StoreUnderflow s r i m n pops bytes body fin) (hs : s.Sound) (hempty : s.stEmpty 0 = true) :
    ∃ t, r = .next t ∧ underflowed s t i ∧ (masked s.cw .ie = true → ∃ v, storedAs s t i m n (leNat (bytes v)) pops) := by
  obtain ⟨hstores, hframed, hpops, hlength, hsize, hfault⟩ := h
  obtain ⟨u, hb, hnone, hsome⟩ := hstores
  have hframe := hframed u
  obtain ⟨t, hq, hbody⟩ := hfault u ((hb.stEmpty 0).trans hempty)
  have hfault : s.StackFaulted (t.stackFault false) false :=
    hb.stackFaulted (hq.stackFaulted (stackFault_spec t false))
  have hsteady : u.Steady (t.stackFault false) := hq.toSteady.stackFault false
  cases hm : masked s.cw .ie with
  | true =>
    have hbody : body u = (fin (t.stackFault false), some (bytes (t.stackFault false))) := by
      rw [hbody, State.faultStore, hq.cw, hb.cw, if_pos hm]
    rw [hbody] at hframe
    obtain ⟨hregs, hpopped⟩ := hsteady.pop hpops
    have hsw := (hpops (t.stackFault false)).2.1
    have hstored := hb.storedAs (m := m) (n := n) (bs := bytes (t.stackFault false)) hs hframe (hb.keepsRegs hregs)
      (hb.popped hpopped) (hlength _) hsize
    obtain ⟨-, -, -, -, hcompleted⟩ := id hstored
    refine ⟨_, hsome _ _ hbody, ⟨stackFaulted_of_errors hfault (hpops.errors _) ?_, hcompleted,
      fun hn => by rw [hm] at hn; cases hn⟩, fun _ => ⟨_, hstored⟩⟩
    show (fin (t.stackFault false)).sw.c1 = _
    rw [hsw]
  | false =>
    have hbody : body u = (t.stackFault false, none) := by
      rw [hbody, State.faultStore, hq.cw, hb.cw, if_neg (by simp [hm])]
    rw [hbody] at hframe
    obtain ⟨hmem, hregs, -, hcompleted⟩ := hb.notStored hframe hsteady
    obtain ⟨-, htags, -⟩ := hsteady.left
    refine ⟨_, hnone _ hbody, ⟨hfault, hcompleted, fun _ => ⟨hregs, hb.keepsTags htags, ?_, hmem⟩⟩, nofun⟩
    rw [← hb.sw]
    exact hsteady.top

section Stores

variable {i : Instr} {s : State} {r : Result} {m : MemOp} {n pops : Nat} {fin : State → State}

theorem storeUnderflow_real {f : Fmt} (hexec : numStore i m n s (storeReal f fin) = r)
    (hacc : s.access i = some ⟨m, true, n⟩) (hr : s.Ready true) (hreach : s.Reachable i.prefixes m true n)
    (hpops : Pops fin pops) (hleads : ∀ F : Frame, F.start.phys 0 ∈ F.results ++ F.retagged → F.Leads fin)
    (hl : f.bytes = n) (hn : n ≤ 2 ^ 16) :
    StoreUnderflow s r i m n pops (fun _ => leBytes f.bytes f.indefinite) (storeReal f fin) fin :=
  ⟨storesTo_numStore hexec hacc hr hreach,
    framedStore_of_leads fun _ => storeReal_leads (hleads _ (List.mem_append_left _ (List.mem_finRange _))), hpops,
    fun _ => (leBytes_length _ _).trans hl, hn, fun u hu => ⟨u.drawC320, drawC320_quiet u, if_pos hu⟩⟩

theorem storeUnderflow_int (hexec : numStore i m n s (storeInt n fin) = r)
    (hacc : s.access i = some ⟨m, true, n⟩) (hr : s.Ready true) (hreach : s.Reachable i.prefixes m true n)
    (hpops : Pops fin pops) (hleads : ∀ F : Frame, F.start.phys 0 ∈ F.results ++ F.retagged → F.Leads fin)
    (hn : n ≤ 2 ^ 16) :
    StoreUnderflow s r i m n pops (fun _ => intIndefinite n) (storeInt n fin) fin :=
  ⟨storesTo_numStore hexec hacc hr hreach,
    framedStore_of_leads fun _ => storeInt_leads (hleads _ (List.mem_append_left _ (List.mem_finRange _))), hpops,
    fun _ => leBytes_length _ _, hn, fun u hu => ⟨u.drawC320, drawC320_quiet u, if_pos hu⟩⟩

theorem storeUnderflow_ext (hexec : numStore i m 10 s storeExt = r)
    (hacc : s.access i = some ⟨m, true, 10⟩) (hr : s.Ready true) (hreach : s.Reachable i.prefixes m true 10) :
    StoreUnderflow s r i m 10 1 (fun _ => extBytes indefinite) storeExt State.pop :=
  ⟨storesTo_numStore hexec hacc hr hreach, framedStore_storeExt, pops_pop, fun _ => leBytes_length _ _, by decide,
    fun u hu => ⟨u.drawC320ClearC1, drawC320ClearC1_quiet u, if_pos hu⟩⟩

theorem storeUnderflow_bcd (hexec : numStore i m 10 s storeBcd = r)
    (hacc : s.access i = some ⟨m, true, 10⟩) (hr : s.Ready true) (hreach : s.Reachable i.prefixes m true 10) :
    StoreUnderflow s r i m 10 1 (fun v => leBytes 8 (v.drawn 64).toNat ++ [0xFF, 0xFF]) storeBcd fun v => v.drew.pop :=
  ⟨storesTo_numStore hexec hacc hr hreach,
    framedStore_of_leads fun _ => storeBcd_leads (frame_leads_pop (List.mem_append_left _ (List.mem_finRange _))),
    fun v => pops_pop v.drew, fun _ => by rw [List.length_append, leBytes_length]; rfl, by decide,
    fun u hu => ⟨u.drawC320, drawC320_quiet u, if_pos hu⟩⟩

end Stores

/-- Each store to memory but FBSTP is one of these with the indefinite of its format. -/
theorem indefiniteStore_runs {i : Instr} {s : State} {r : Result} {m : MemOp} {n w pops : Nat} (hexec : exec i s = r)
    (hi : indefiniteStore i = some (m, n, w, pops)) (hr : s.Ready true) (hreach : s.Reachable i.prefixes m true n) :
    ∃ bs body fin, StoreUnderflow s r i m n pops (fun _ => bs) body fin ∧ leNat bs = w := by
  unfold exec at hexec
  have leadsId : ∀ F : Frame, F.start.phys 0 ∈ F.results ++ F.retagged → F.Leads id := fun _ _ => frame_leads_id
  have leadsPop : ∀ F : Frame, F.start.phys 0 ∈ F.results ++ F.retagged → F.Leads State.pop := fun _ => frame_leads_pop
  cases i with
  | fstM32 | fstM64 =>
    cases hi
    exact ⟨_, _, _, storeUnderflow_real hexec rfl hr hreach pops_id leadsId rfl (by decide), by decide⟩
  | fstpM32 | fstpM64 =>
    cases hi
    exact ⟨_, _, _, storeUnderflow_real hexec rfl hr hreach pops_pop leadsPop rfl (by decide), by decide⟩
  | fistI16 | fistI32 =>
    cases hi
    exact ⟨_, _, _, storeUnderflow_int hexec rfl hr hreach pops_id leadsId (by decide), by decide⟩
  | fistpI16 | fistpI32 | fistpI64 =>
    cases hi
    exact ⟨_, _, _, storeUnderflow_int hexec rfl hr hreach pops_pop leadsPop (by decide), by decide⟩
  | fstpM80 =>
    cases hi
    exact ⟨_, _, _, storeUnderflow_ext hexec rfl hr hreach, by decide⟩
  | _ => cases hi

theorem leNat_append (as bs : List Byte) : leNat (as ++ bs) = leNat as + 256 ^ as.length * leNat bs := by
  induction as with
  | nil => simp [leNat]
  | cons a as ih => rw [List.cons_append, leNat, leNat, ih, List.length_cons, pow_succ]; ring

/-- The two high bytes of the packed-decimal indefinite (R150, U9). -/
theorem bcdIndefinite_high (d : BitVec 64) : leNat (leBytes 8 d.toNat ++ [0xFF, 0xFF]) / 2 ^ 64 = 0xFFFF := by
  rw [leNat_append, leBytes_length, leNat_leBytes]
  have : leNat [0xFF, 0xFF] = 0xFFFF := by decide
  rw [this]
  have := d.isLt
  omega

/-! ## FXCH (R206) -/

theorem exchange_empty {u : State} {j : Fin 8} (h : u.stEmpty 0 = true ∨ u.stEmpty j = true) :
    exchange j u = u.drawC320ClearC1.faultThen false fun t =>
      (t.putReg (u.phys 0) (if u.stEmpty j then indefinite else u.st j)).putReg (u.phys j)
        (if u.stEmpty 0 then indefinite else u.st 0) := by
  have h : (u.drawC320ClearC1.stEmpty 0 || u.drawC320ClearC1.stEmpty j) = true := by
    have : (u.stEmpty 0 || u.stEmpty j) = true := by simpa using h
    exact this
  simp only [exchange, h, if_true]
  rfl

/-- O35's last part. -/
theorem fxch_underflow {q : List Prefix} {j : Fin 8} {s : State} (hr : s.Ready true)
    (hempty : s.stEmpty 0 = true ∨ s.stEmpty j = true) :
    ∃ t, exec (.fxch q j) s = .next t ∧ underflowed s t (.fxch q j) ∧ s.KeepsMemory t []
      ∧ (masked s.cw .ie = true →
          t.st 0 = (if s.stEmpty j then indefinite else s.st j)
            ∧ t.st j = (if s.stEmpty 0 then indefinite else s.st 0) ∧ t.stEmpty 0 = false ∧ t.stEmpty j = false
            ∧ s.KeepsRegs t [s.phys 0, s.phys j] ∧ s.KeepsTags t [s.phys 0, s.phys j] ∧ t.sw.top = s.sw.top) := by
  obtain ⟨u, hb, hexec, hmem, hcompleted⟩ := (runs_numReg (i := .fxch q j) (body := exchange j) rfl rfl hr).framed
    framed_exchange
  rw [← hb.stEmpty, ← hb.stEmpty] at hempty
  rw [exchange_empty hempty] at hexec hmem hcompleted
  simp only [hb.stEmpty, hb.st, hb.phys] at hexec hmem hcompleted
  have hone : s.phys 0 = s.phys j →
      (if s.stEmpty 0 then indefinite else s.st 0) = (if s.stEmpty j then indefinite else s.st j) := fun h => by
    rw [(phys_injective s).mp h]
  generalize (if s.stEmpty j then indefinite else s.st j) = a at *
  generalize (if s.stEmpty 0 then indefinite else s.st 0) = b at *
  have hq := drawC320ClearC1_quiet u
  have hsteady : u.Steady (u.drawC320ClearC1.stackFault false) := hq.toSteady.stackFault false
  have hfault : s.StackFaulted (u.drawC320ClearC1.stackFault false) false :=
    hb.stackFaulted (hq.stackFaulted (stackFault_spec _ false))
  have htop : u.sw.top = s.sw.top := by rw [hb.sw]
  refine ⟨_, hexec, ?_⟩
  rcases faultThen_cases u.drawC320ClearC1 false fun t => (t.putReg (s.phys 0) a).putReg (s.phys j) b
    with ⟨hm, e⟩ | ⟨hm, e⟩
  · rw [e] at hmem hcompleted ⊢
    rw [show u.drawC320ClearC1.cw = s.cw from hb.cw] at hm
    obtain ⟨hreg, hempty⟩ := hsteady.putTwo (s.phys 0) (s.phys j) a b
    generalize hv : ((u.drawC320ClearC1.stackFault false).putReg (s.phys 0) a).putReg (s.phys j) b = v at *
    have hst := st_of_top (s := s) (t := v) (by rw [← hv]; exact htop)
    have hstEmpty : ∀ l, v.stEmpty l = v.isEmpty (s.phys l) := fun l => by
      rw [State.stEmpty, State.phys, State.phys, ← hv, ← htop]
      rfl
    refine ⟨⟨stackFaulted_of_errors hfault (by rw [← hv]; rfl) (by rw [← hv]; rfl), hcompleted,
      fun hn => by rw [hm] at hn; cases hn⟩, hmem, fun _ => ⟨?_, ?_, ?_, ?_, fun k hk => ?_, fun k hk => ?_, ?_⟩⟩
    · refine (hst 0).trans ((hreg _).trans ?_)
      split
      next h => exact hone h
      next => exact if_pos rfl
    · exact (hst j).trans ((hreg _).trans (if_pos rfl))
    · refine (hstEmpty 0).trans ((hempty _).trans ?_)
      simp
    · exact (hstEmpty j).trans ((hempty _).trans (if_pos rfl))
    · simp only [List.mem_cons, List.not_mem_nil, or_false, not_or] at hk
      exact (hreg k).trans ((if_neg hk.2).trans ((if_neg hk.1).trans (hb.reg k)))
    · simp only [List.mem_cons, List.not_mem_nil, or_false, not_or] at hk
      exact (hempty k).trans ((if_neg hk.2).trans ((if_neg hk.1).trans (hb.isEmpty k)))
    · show v.sw.top = _
      rw [← hv]
      exact htop
  · rw [e] at hmem hcompleted ⊢
    rw [show u.drawC320ClearC1.cw = s.cw from hb.cw] at hm
    obtain ⟨hregs, htags, -⟩ := hsteady.left
    exact ⟨⟨hfault, hcompleted, fun _ => ⟨hb.keepsRegs hregs, hb.keepsTags htags, htop, hmem⟩⟩, hmem,
      fun hn => by (rw [hm] at hn; cases hn)⟩

/-- Settles O35: the five parts are the families of underflows above. -/
theorem emptyOperandUnderflows : Obligations.EmptyOperandUnderflows := by
  refine ⟨fun _ _ _ _ _ _ => registerArith_underflow, fun _ _ _ _ _ => underflowing_spec,
    fun i s m n w pops hi hs hr hreach hempty => ?_, fun q m s hs hr hreach hempty => ?_, fun _ _ _ => fxch_underflow⟩
  · obtain ⟨bs, body, fin, h, rfl⟩ := indefiniteStore_runs rfl hi hr hreach
    obtain ⟨t, hexec, hunder, hstored⟩ := h.spec hs hempty
    exact ⟨t, hexec, hunder, fun hm => (hstored hm).elim fun _ h => h⟩
  · obtain ⟨t, hexec, hunder, hstored⟩ :=
      (storeUnderflow_bcd (i := .fbstp q m) (s := s) rfl rfl hr hreach).spec hs hempty
    refine ⟨t, hexec, hunder, fun hm => ?_⟩
    obtain ⟨v, hv⟩ := hstored hm
    exact ⟨_, bcdIndefinite_high _, hv⟩

end Sys2Proof.Machine

/-! # Rounding (O36)

Among candidates that are closed under negation, the rounding of a number between two neighbours is one of them; which
one, `roundsUp` says.  `roundUnit` finds the neighbours at a unit `2^t`, and `roundTo` takes the unit at which they are
the neighbours of `p` bits. -/

namespace Sys2Proof

/-! ## Candidates and neighbours (R130) -/

section Candidates

variable {C E : ℝ → Prop} {rc : Rounding} {x y a b : ℝ}

/-- The direction that a rounding mode has on the negated number. -/
def Rounding.flip : Rounding → Rounding
  | .down => .up
  | .up => .down
  | rc => rc

theorem roundsAmong_neg (hC : ∀ z, C z → C (-z)) (hE : ∀ z, E z → E (-z)) (h : RoundsAmong C E rc.flip x y) :
    RoundsAmong C E rc (-x) (-y) := by
  obtain ⟨hy, h⟩ := h
  refine ⟨hC y hy, ?_⟩
  cases rc with
  | down =>
    obtain ⟨h1, h2⟩ := h
    exact ⟨neg_le_neg h1, fun z hz hzx => by linarith [h2 (-z) (hC z hz) (by linarith)]⟩
  | up =>
    obtain ⟨h1, h2⟩ := h
    exact ⟨neg_le_neg h1, fun z hz hzx => by linarith [h2 (-z) (hC z hz) (by linarith)]⟩
  | chop =>
    obtain ⟨h1, h2, h3⟩ := h
    refine ⟨by simpa using h1, by simpa using h2, fun z hz hs hzx => ?_⟩
    have := h3 (-z) (hC z hz) (by linarith) (by simpa using hzx)
    simpa using this
  | nearest =>
    obtain ⟨h1, h2⟩ := h
    have dist : ∀ z : ℝ, |-x - z| = |x - -z| := fun z => by rw [← abs_neg]; ring_nf
    refine ⟨fun z hz => ?_, fun ⟨z, hz, hne, he⟩ => ?_⟩
    · rw [dist, dist, neg_neg]
      exact h1 _ (hC z hz)
    · rw [dist, dist, neg_neg] at he
      exact hE y (h2 ⟨-z, hC z hz, fun h => hne (by rw [← h, neg_neg]), he⟩)

theorem roundsAmong_self (h : C x) : RoundsAmong C E rc x x := by
  refine ⟨h, ?_⟩
  cases rc with
  | down => exact ⟨le_rfl, fun _ _ h => h⟩
  | up => exact ⟨le_rfl, fun _ _ h => h⟩
  | chop => exact ⟨le_rfl, mul_self_nonneg x, fun _ _ _ h => h⟩
  | nearest =>
    refine ⟨fun z _ => by rw [sub_self, abs_zero]; exact abs_nonneg _, fun ⟨z, _, hne, he⟩ => ?_⟩
    rw [sub_self, abs_zero, abs_eq_zero, sub_eq_zero] at he
    exact absurd he.symm hne

/-- `a` and `b` are candidates with none between them. -/
structure Neighbours (C : ℝ → Prop) (a b : ℝ) : Prop where
  left : C a
  right : C b
  none : ∀ z, C z → z ≤ a ∨ b ≤ z

variable (h : Neighbours C a b) (ha : 0 ≤ a) (hax : a < x) (hxb : x < b)
include h ha hax hxb

/-- The lower neighbour of a positive number. -/
theorem Neighbours.rounds_lower (hrc : rc ≠ .up) (hn : rc = .nearest → x - a ≤ b - x)
    (he : rc = .nearest → x - a = b - x → E a) : RoundsAmong C E rc x a := by
  refine ⟨h.left, ?_⟩
  cases rc with
  | down => exact ⟨hax.le, fun z hz hzx => (h.none z hz).resolve_right fun hb => by linarith⟩
  | up => exact absurd rfl hrc
  | chop =>
    have hx : 0 < x := ha.trans_lt hax
    rw [abs_of_nonneg ha, abs_of_pos hx]
    refine ⟨hax.le, mul_nonneg hx.le ha, fun z hz hs hzx => ?_⟩
    have hz0 : 0 ≤ z := nonneg_of_mul_nonneg_right hs hx
    rw [abs_of_nonneg hz0] at hzx ⊢
    exact (h.none z hz).resolve_right fun hb => by linarith
  | nearest =>
    have hd := hn rfl
    rw [abs_of_pos (sub_pos.mpr hax)]
    refine ⟨fun z hz => ?_, fun ⟨z, hz, hne, heq⟩ => ?_⟩
    · rcases h.none z hz with hz | hz
      · rw [abs_of_nonneg (by linarith)]; linarith
      · rw [abs_of_nonpos (by linarith)]; linarith
    · rcases h.none z hz with hz | hz
      · rw [abs_of_nonneg (by linarith)] at heq
        exact absurd (by linarith) hne
      · rw [abs_of_nonpos (by linarith)] at heq
        exact he rfl (by linarith)

omit ha in
/-- The upper neighbour of a positive number. -/
theorem Neighbours.rounds_upper (hrc : rc = .up ∨ rc = .nearest) (hn : rc = .nearest → b - x ≤ x - a)
    (he : rc = .nearest → x - a = b - x → E b) : RoundsAmong C E rc x b := by
  refine ⟨h.right, ?_⟩
  rcases hrc with rfl | rfl
  · exact ⟨hxb.le, fun z hz hzx => (h.none z hz).resolve_left fun hb => by linarith⟩
  · have hd := hn rfl
    rw [abs_of_neg (by linarith : x - b < 0)]
    refine ⟨fun z hz => ?_, fun ⟨z, hz, hne, heq⟩ => ?_⟩
    · rcases h.none z hz with hz | hz
      · rw [abs_of_nonneg (by linarith)]; linarith
      · rw [abs_of_nonpos (by linarith)]; linarith
    · rcases h.none z hz with hz | hz
      · rw [abs_of_nonneg (by linarith)] at heq
        exact he rfl (by linarith)
      · rw [abs_of_nonpos (by linarith)] at heq
        exact absurd (by linarith) hne

end Candidates

/-! ## What is left of a magnitude at a unit (R130) -/

/-- How a fraction compares with one half. -/
def Rest.Holds : Rest → ℝ → Prop
  | .none, f => f = 0
  | .below, f => 0 < f ∧ f < 1 / 2
  | .half, f => f = 1 / 2
  | .above, f => 1 / 2 < f ∧ f < 1

theorem restOf_holds {r d : Nat} {more : Bool} (hd : 0 < d) (hr : r < 2 ^ d) {f : ℝ}
    (hf : if more then (r : ℝ) < f ∧ f < r + 1 else f = r) : (restOf r d more).Holds (f / 2 ^ d) := by
  obtain ⟨c, rfl⟩ : ∃ c, d = c + 1 := ⟨d - 1, by omega⟩
  have hpos : (0 : ℝ) < 2 ^ c := by positivity
  have hrR : (r : ℝ) + 1 ≤ 2 ^ (c + 1) := by exact_mod_cast hr
  unfold restOf
  rw [Nat.add_sub_cancel]
  have half : (1 : ℝ) / 2 = 2 ^ c / 2 ^ (c + 1) := by rw [pow_succ]; field_simp
  have hden : (0 : ℝ) < 2 ^ (c + 1) := by positivity
  cases more with
  | false =>
    simp only [Bool.false_eq_true, if_false, and_true] at hf ⊢
    subst hf
    split
    next h0 => simp [Rest.Holds, h0]
    split
    next h0 hlt =>
      have : (r : ℝ) < 2 ^ c := by exact_mod_cast hlt
      exact ⟨div_pos (by exact_mod_cast Nat.pos_of_ne_zero h0) hden, by rw [half]; gcongr⟩
    split
    next heq => simp only [Rest.Holds, heq, half]; push_cast; rfl
    next hge hne =>
      have : (2 : ℝ) ^ c < r := by exact_mod_cast lt_of_le_of_ne (Nat.not_lt.mp hge) (Ne.symm hne)
      exact ⟨by rw [half]; gcongr, by rw [div_lt_one hden]; linarith⟩
  | true =>
    simp only [Bool.true_eq_false, and_false, if_false, if_true] at hf ⊢
    obtain ⟨h1, h2⟩ := hf
    have h0 : (0 : ℝ) ≤ r := by positivity
    split
    next hlt =>
      have : (r : ℝ) + 1 ≤ 2 ^ c := by exact_mod_cast hlt
      exact ⟨div_pos (by linarith) hden, by rw [half]; gcongr; linarith⟩
    next hge =>
      have : (2 : ℝ) ^ c ≤ r := by exact_mod_cast Nat.not_lt.mp hge
      exact ⟨by rw [half]; gcongr; linarith, by rw [div_lt_one hden]; linarith⟩

/-- What a denoted number has to satisfy, without the case of `more`. -/
theorem Mag.Denotes.bounds {m : Mag} {x : ℝ} (h : m.Denotes x) :
    (m.n : ℝ) * 2 ^ m.k ≤ x ∧ x < (m.n + 1) * 2 ^ m.k := by
  have hk : (0 : ℝ) < 2 ^ m.k := by positivity
  unfold Mag.Denotes at h
  split at h
  · exact ⟨h.1.le, h.2⟩
  · rw [h]
    exact ⟨le_rfl, by nlinarith⟩

theorem Mag.Denotes.pos {m : Mag} {x : ℝ} (h : m.Denotes x) (h0 : ¬ (m.n = 0 ∧ m.more = false)) : 0 < x := by
  have hk : (0 : ℝ) < 2 ^ m.k := by positivity
  have hn : (0 : ℝ) ≤ m.n := by positivity
  unfold Mag.Denotes at h
  split at h
  · exact lt_of_le_of_lt (by positivity) h.1
  next hmore =>
    have : 0 < m.n := Nat.pos_of_ne_zero fun hz => h0 ⟨hz, by simpa using hmore⟩
    rw [h]
    positivity

theorem two_pow_toNat {a b : ℤ} (h : a ≤ b) : (2 : ℝ) ^ b = 2 ^ (b - a).toNat * 2 ^ a := by
  rw [← zpow_natCast, ← zpow_add₀ (by norm_num), Int.toNat_of_nonneg (by omega)]
  congr 1
  omega

/-- `splitAt` divides by the unit; where the unit is below the magnitude's own there must be no remainder. -/
theorem splitAt_holds {m : Mag} {x : ℝ} {t : ℤ} (h : m.Denotes x) (hm : m.more = true → m.k < t) :
    (splitAt m t).2.Holds (x / 2 ^ t - (splitAt m t).1) := by
  have hb := h.bounds
  have ht : (0 : ℝ) < 2 ^ t := by positivity
  unfold splitAt
  split
  next hle =>
    have hmore : m.more = false := by
      by_contra hc
      exact absurd (hm (by simpa using hc)) (not_lt.mpr hle)
    simp only [Mag.Denotes, hmore, Bool.false_eq_true, if_false] at h ⊢
    rw [Rest.Holds, h, shiftUp, Nat.shiftLeft_eq, two_pow_toNat hle]
    push_cast
    field_simp
    ring
  next hgt =>
    have hlt : m.k < t := not_le.mp hgt
    obtain ⟨d, hd⟩ : ∃ d : ℕ, (t - m.k).toNat = d := ⟨_, rfl⟩
    have hdpos : 0 < d := by omega
    have hpow : (2 : ℝ) ^ t = 2 ^ d * 2 ^ m.k := by rw [two_pow_toNat hlt.le, hd]
    have hkpos : (0 : ℝ) < 2 ^ m.k := by positivity
    rw [hd]
    split
    next hfar =>
      rw [Nat.cast_zero, sub_zero]
      split
      next h0 =>
        obtain ⟨hn, hmore⟩ := h0
        simp only [Mag.Denotes, hmore, hn, Bool.false_eq_true, if_false, Nat.cast_zero, zero_mul] at h
        simp [Rest.Holds, h]
      next h0 =>
        refine ⟨div_pos (h.pos h0) ht, ?_⟩
        have hn : (m.n : ℝ) + 1 ≤ 2 ^ (m.n.log2 + 1) := by exact_mod_cast Nat.lt_log2_self
        have hd2 : (2 : ℝ) ^ (m.n.log2 + 1) * 2 ≤ 2 ^ d := by
          rw [← pow_succ]
          exact pow_le_pow_right₀ (by norm_num) (by omega)
        rw [div_lt_div_iff₀ ht two_pos, one_mul, hpow]
        nlinarith [hb.2]
    next hnear =>
      have hsplit : (m.n : ℝ) = 2 ^ d * (m.n >>> d : ℕ) + (m.n % 2 ^ d : ℕ) := by
        rw [Nat.shiftRight_eq_div_pow]
        exact_mod_cast (Nat.div_add_mod m.n (2 ^ d)).symm
      have hfrac : x / 2 ^ t - (m.n >>> d : ℕ) = (x / 2 ^ m.k - 2 ^ d * (m.n >>> d : ℕ)) / 2 ^ d := by
        rw [hpow]
        field_simp
      show (restOf _ d m.more).Holds _
      rw [hfrac]
      refine restOf_holds hdpos (Nat.mod_lt _ (by positivity)) ?_
      unfold Mag.Denotes at h
      split at h
      next hmore =>
        rw [if_pos hmore, lt_sub_iff_add_lt, sub_lt_iff_lt_add, lt_div_iff₀ hkpos, div_lt_iff₀ hkpos]
        rw [hsplit] at h
        exact ⟨by linarith [h.1], by linarith [h.2]⟩
      next hmore =>
        rw [if_neg hmore, h, hsplit]
        field_simp
        ring

/-! ## Rounding at a unit -/

/-- The integer part of a magnitude at a unit. -/
theorem splitAt_bounds {m : Mag} {x : ℝ} {t : ℤ} (h : m.Denotes x) (hm : m.more = true → m.k < t) :
    ((splitAt m t).1 : ℝ) * 2 ^ t ≤ x ∧ x < ((splitAt m t).1 + 1) * 2 ^ t := by
  have ht : (0 : ℝ) < 2 ^ t := by positivity
  have hs := splitAt_holds h hm
  rw [← le_div_iff₀ ht, ← div_lt_iff₀ ht]
  cases hr : (splitAt m t).2 <;> rw [hr] at hs
  · have : x / 2 ^ t - (splitAt m t).1 = 0 := hs
    constructor <;> linarith
  · constructor <;> linarith [hs.1, hs.2]
  · have : x / 2 ^ t - (splitAt m t).1 = 1 / 2 := hs
    constructor <;> linarith
  · constructor <;> linarith [hs.1, hs.2]

/-- A positive number that is no candidate is rounded as `roundsUp` says. -/
theorem Neighbours.rounds {C E : ℝ → Prop} {rc : Rounding} {x u : ℝ} {q : ℕ} {r : Rest} (hu : 0 < u)
    (h : Neighbours C (q * u) ((q + 1) * u)) (hr : r.Holds (x / u - q)) (hne : r ≠ .none)
    (hlo : Even q → E (q * u)) (hhi : Even (q + 1) → E ((q + 1) * u)) :
    RoundsAmong C E rc x ((if roundsUp false rc q r then (q : ℝ) + 1 else q) * u) := by
  have ha : 0 ≤ (q : ℝ) * u := by positivity
  have hf : 0 < x / u - q ∧ x / u - q < 1 := by
    cases r with
    | none => exact absurd rfl hne
    | below => exact ⟨hr.1, by linarith [hr.2]⟩
    | half => have : x / u - q = 1 / 2 := hr; constructor <;> linarith
    | above => exact ⟨by linarith [hr.1], hr.2⟩
  have hx : x = (x / u) * u := by field_simp
  have hax : q * u < x := by rw [hx]; nlinarith
  have hxb : x < (q + 1) * u := by rw [hx]; nlinarith
  cases rc with
  | down => simpa [roundsUp] using h.rounds_lower (rc := .down) (E := E) ha hax hxb (by decide) nofun nofun
  | chop => simpa [roundsUp] using h.rounds_lower (rc := .chop) (E := E) ha hax hxb (by decide) nofun nofun
  | up => simpa [roundsUp] using h.rounds_upper (rc := .up) (E := E) hax hxb (.inl rfl) nofun nofun
  | nearest =>
    cases r with
    | none => exact absurd rfl hne
    | below =>
      show RoundsAmong C E _ x (q * u)
      refine h.rounds_lower ha hax hxb (by decide) (fun _ => ?_) fun _ heq => ?_
      · rw [hx]; nlinarith [hr.2]
      · rw [hx] at heq; nlinarith [hr.2]
    | above =>
      show RoundsAmong C E _ x ((q + 1) * u)
      refine h.rounds_upper hax hxb (.inr rfl) (fun _ => ?_) fun _ heq => ?_
      · rw [hx]; nlinarith [hr.1]
      · rw [hx] at heq; nlinarith [hr.1]
    | half =>
      have hr : x / u - q = 1 / 2 := hr
      have hmid : x - q * u = (q + 1) * u - x := by rw [hx]; linear_combination 2 * u * hr
      rcases Nat.even_or_odd q with hq | hq
      · have : roundsUp false .nearest q .half = false := by
          simp [roundsUp, Nat.even_iff.mp hq]
        simp only [this, Bool.false_eq_true, if_false]
        exact h.rounds_lower ha hax hxb (by decide) (fun _ => hmid.le) fun _ _ => hlo hq
      · have : roundsUp false .nearest q .half = true := by
          simp [roundsUp, Nat.odd_iff.mp hq]
        simp only [this, if_true]
        exact h.rounds_upper hax hxb (.inr rfl) (fun _ => hmid.ge) fun _ _ => hhi hq.add_one

/-- The sign of a signed magnitude, as a real number. -/
theorem signOf_cast (neg : Bool) : ((signOf neg : ℚ) : ℝ) = if neg then -1 else 1 := by
  cases neg <;> simp [signOf]

theorem roundsUp_flip (rc : Rounding) (q : ℕ) (r : Rest) : roundsUp true rc q r = roundsUp false rc.flip q r := by
  cases rc <;> rfl

theorem Rounded.val_cast (r : Rounded) (neg : Bool) : ((r.val neg : ℚ) : ℝ) = (signOf neg : ℚ) * (r.n * 2 ^ r.k) := by
  unfold Rounded.val
  push_cast
  rfl

/-- What it is for `r` to be the rounding of the signed magnitude `x` among candidates. -/
structure RoundedAmong (C E : ℝ → Prop) (rc : Rounding) (neg : Bool) (x : ℝ) (r : Rounded) : Prop where
  rounds : RoundsAmong C E rc ((signOf neg : ℚ) * x) (r.val neg : ℚ)
  inexact : r.inexact = true ↔ ((r.val neg : ℚ) : ℝ) ≠ (signOf neg : ℚ) * x
  up : r.up = true ↔ |((signOf neg : ℚ) : ℝ) * x| < |((r.val neg : ℚ) : ℝ)|

/-- `roundUnit` rounds among candidates that have the multiples of the unit around the magnitude as neighbours. -/
theorem roundUnit_roundedAmong {C E : ℝ → Prop} {neg : Bool} {rc : Rounding} {m : Mag} {x : ℝ} {t : ℤ}
    (hC : ∀ z, C z → C (-z)) (hE : ∀ z, E z → E (-z)) (h : m.Denotes x) (hm : m.more = true → m.k < t)
    (hn : Neighbours C ((splitAt m t).1 * 2 ^ t) (((splitAt m t).1 + 1) * 2 ^ t))
    (hlo : Even (splitAt m t).1 → E ((splitAt m t).1 * 2 ^ t))
    (hhi : Even ((splitAt m t).1 + 1) → E (((splitAt m t).1 + 1) * 2 ^ t)) :
    RoundedAmong C E rc neg x (roundUnit neg rc m t) := by
  have hu : (0 : ℝ) < 2 ^ t := by positivity
  have hs := splitAt_holds h hm
  obtain ⟨hb1, hb2⟩ := splitAt_bounds h hm
  generalize hq : (splitAt m t).1 = q at *
  generalize hr : (splitAt m t).2 = r at *
  have hsigned : ∀ {y : ℝ}, RoundsAmong C E (if neg then rc.flip else rc) x y →
      RoundsAmong C E rc ((signOf neg : ℚ) * x) ((signOf neg : ℚ) * y) := fun hy => by
    rw [signOf_cast]
    cases neg with
    | false => simpa using hy
    | true => simpa using roundsAmong_neg hC hE hy
  have habs : ∀ y : ℝ, 0 ≤ y → |((signOf neg : ℚ) : ℝ) * y| = y := fun y hy => by
    rw [signOf_cast]
    cases neg <;> simp [abs_of_nonneg hy]
  have hinj : ∀ y : ℝ, ((signOf neg : ℚ) : ℝ) * y = (signOf neg : ℚ) * x ↔ y = x := fun y => by
    rw [signOf_cast]
    cases neg <;> simp
  have hround : roundUnit neg rc m t =
      { n := if (r != .none) && roundsUp false (if neg then rc.flip else rc) q r then q + 1 else q, k := t,
        inexact := r != .none, up := (r != .none) && roundsUp false (if neg then rc.flip else rc) q r } := by
    have hflip : roundsUp neg rc q r = roundsUp false (if neg then rc.flip else rc) q r := by
      cases neg
      · rfl
      · exact roundsUp_flip rc q r
    simp only [roundUnit, hq, hr, hflip]
  have hq0 : (0 : ℝ) ≤ q * 2 ^ t := by positivity
  rw [hround]
  generalize (if neg then rc.flip else rc) = rc' at *
  by_cases hne : r = .none
  · have hx : x = q * 2 ^ t := by
      rw [hne] at hs
      have hs : x / 2 ^ t - q = 0 := hs
      field_simp at hs
      linarith
    subst hne
    refine ⟨?_, ?_, ?_⟩ <;> rw [Rounded.val_cast] <;> simp only [bne_self_eq_false, Bool.false_and, Bool.false_eq_true, if_false]
    · rw [← hx]
      exact hsigned (roundsAmong_self (hx ▸ hn.left))
    · simp [hx]
    · simp [hx]
  · have hbne : (r != .none) = true := by simpa using hne
    have hround := hsigned (hn.rounds (rc := rc') hu hs hne hlo hhi)
    have hstrict : q * 2 ^ t < x := by
      refine lt_of_le_of_ne hb1 fun hx => hne ?_
      have h0 : x / 2 ^ t - q = 0 := by rw [← hx]; field_simp; ring
      rw [h0] at hs
      cases r with
      | none => rfl
      | below => exact absurd hs.1 (lt_irrefl 0)
      | half => exact absurd (show (0 : ℝ) = 1 / 2 from hs) (by norm_num)
      | above => exact absurd hs.1 (by norm_num)
    refine ⟨?_, ?_, ?_⟩ <;> rw [Rounded.val_cast] <;> simp only [hbne, Bool.true_and]
    · convert hround using 3
      split <;> simp
    · simp only [ne_eq, hinj, true_iff]
      split
      · push_cast; exact hb2.ne'
      · exact hstrict.ne
    · rw [habs _ (hq0.trans hb1)]
      split
      next hup =>
        rw [habs _ (by positivity)]
        push_cast
        simpa [hup] using hb2
      next hup =>
        rw [habs _ hq0]
        simpa [hup] using hb1

/-! ## The neighbours of `p` bits, and of the multiples of a unit -/

/-- A nonzero magnitude lies in the binade of its logarithm. -/
theorem Mag.Denotes.log2_bounds {m : Mag} {x : ℝ} (h : m.Denotes x) (hn : m.n ≠ 0) :
    (2 : ℝ) ^ m.log2 ≤ x ∧ x < 2 ^ (m.log2 + 1) := by
  obtain ⟨h1, h2⟩ := h.bounds
  have hk : (0 : ℝ) < 2 ^ m.k := by positivity
  have hlo : (2 : ℝ) ^ m.n.log2 ≤ m.n := by exact_mod_cast Nat.log2_self_le hn
  have hhi : (m.n : ℝ) + 1 ≤ 2 ^ (m.n.log2 + 1) := by exact_mod_cast Nat.lt_log2_self
  have two : (2 : ℝ) ≠ 0 := two_ne_zero
  constructor
  · calc (2 : ℝ) ^ m.log2 = 2 ^ m.n.log2 * 2 ^ m.k := by rw [Mag.log2, zpow_add₀ two, zpow_natCast]
      _ ≤ m.n * 2 ^ m.k := by gcongr
      _ ≤ x := h1
  · calc x < (m.n + 1) * 2 ^ m.k := h2
      _ ≤ 2 ^ (m.n.log2 + 1) * 2 ^ m.k := by gcongr
      _ = 2 ^ (m.log2 + 1) := by
        rw [Mag.log2, ← zpow_natCast, ← zpow_add₀ two]
        congr 1
        push_cast
        ring

/-- The multiples of a unit (R131, R137). -/
def Multiple (t : ℤ) (z : ℝ) : Prop := ∃ n : ℤ, z = n * 2 ^ t

/-- The even multiples of a unit. -/
def EvenMultiple (t : ℤ) (z : ℝ) : Prop := ∃ n : ℤ, Even n ∧ z = n * 2 ^ t

theorem representable_neg {p : ℕ} (z : ℝ) : Representable p z → Representable p (-z) := fun ⟨n, k, hn, hz⟩ =>
  ⟨-n, k, by rwa [abs_neg], by rw [hz]; push_cast; ring⟩

theorem evenSignificand_neg {p : ℕ} (z : ℝ) : EvenSignificand p z → EvenSignificand p (-z) :=
  fun ⟨n, k, h1, h2, he, hz⟩ => ⟨-n, k, by rwa [abs_neg], by rwa [abs_neg], he.neg, by rw [hz]; push_cast; ring⟩

theorem multiple_neg {t : ℤ} (z : ℝ) : Multiple t z → Multiple t (-z) := fun ⟨n, hz⟩ =>
  ⟨-n, by rw [hz]; push_cast; ring⟩

theorem evenMultiple_neg {t : ℤ} (z : ℝ) : EvenMultiple t z → EvenMultiple t (-z) := fun ⟨n, he, hz⟩ =>
  ⟨-n, he.neg, by rw [hz]; push_cast; ring⟩

theorem neighbours_multiple (q : ℕ) (t : ℤ) : Neighbours (Multiple t) (q * 2 ^ t) ((q + 1) * 2 ^ t) := by
  refine ⟨⟨q, by push_cast; rfl⟩, ⟨q + 1, by push_cast; rfl⟩, fun z ⟨n, hz⟩ => ?_⟩
  rcases le_or_gt n q with h | h
  · exact .inl (by rw [hz]; gcongr; exact_mod_cast h)
  · exact .inr (by rw [hz]; gcongr; exact_mod_cast h)

theorem evenMultiple_of_even {q : ℕ} (t : ℤ) (hq : Even q) : EvenMultiple t (q * 2 ^ t) :=
  ⟨q, by exact_mod_cast hq, by push_cast; rfl⟩

theorem evenMultiple_of_even_succ {q : ℕ} (t : ℤ) (hq : Even (q + 1)) : EvenMultiple t ((q + 1) * 2 ^ t) := by
  have := evenMultiple_of_even t hq
  rwa [Nat.cast_succ] at this

theorem neighbours_representable {p q : ℕ} (t : ℤ) (hp : 1 ≤ p) (hlo : 2 ^ (p - 1) ≤ q) (hhi : q < 2 ^ p) :
    Neighbours (Representable p) (q * 2 ^ t) ((q + 1) * 2 ^ t) := by
  refine ⟨⟨q, t, by exact_mod_cast hhi, by push_cast; rfl⟩, ?_, ?_⟩
  · rcases Nat.lt_or_ge (q + 1) (2 ^ p) with h | h
    · exact ⟨q + 1, t, by exact_mod_cast h, by push_cast; rfl⟩
    · refine ⟨1, p + t, by simpa using one_lt_pow₀ (one_lt_two (α := ℤ)) (by omega), ?_⟩
      have : (q : ℝ) + 1 = 2 ^ p := by
        exact_mod_cast le_antisymm hhi h
      rw [this, zpow_add₀ two_ne_zero, zpow_natCast]
      simp
  · rintro z ⟨n, k, hn, hz⟩
    rcases le_or_gt t k with hk | hk
    · refine (neighbours_multiple q t).none z ⟨n * 2 ^ (k - t).toNat, ?_⟩
      rw [hz, two_pow_toNat hk]
      push_cast
      ring
    · left
      have hnR : (n : ℝ) ≤ 2 ^ p := by exact_mod_cast (le_abs_self n).trans hn.le
      have hloR : (2 : ℝ) ^ (p - 1) ≤ q := by exact_mod_cast hlo
      calc z = n * 2 ^ k := hz
        _ ≤ 2 ^ p * 2 ^ k := by gcongr
        _ = 2 ^ (p - 1) * 2 ^ (k + 1) := by
          rw [zpow_add_one₀ two_ne_zero]
          nth_rewrite 1 [← Nat.sub_add_cancel hp]
          ring
        _ ≤ 2 ^ (p - 1) * 2 ^ t := by
          gcongr
          · norm_num
          · exact hk
        _ ≤ q * 2 ^ t := by gcongr

theorem evenSignificand_of_even {p q : ℕ} (t : ℤ) (hlo : 2 ^ (p - 1) ≤ q) (hhi : q < 2 ^ p) (hq : Even q) :
    EvenSignificand p (q * 2 ^ t) :=
  ⟨q, t, by exact_mod_cast hlo, by exact_mod_cast hhi, by exact_mod_cast hq, by push_cast; rfl⟩

theorem evenSignificand_of_even_succ {p q : ℕ} (t : ℤ) (hp : 2 ≤ p) (hlo : 2 ^ (p - 1) ≤ q) (hhi : q < 2 ^ p)
    (hq : Even (q + 1)) : EvenSignificand p ((q + 1) * 2 ^ t) := by
  rcases Nat.lt_or_ge (q + 1) (2 ^ p) with h | h
  · have := evenSignificand_of_even t (hlo.trans q.le_succ) h hq
    rwa [Nat.cast_succ] at this
  · obtain ⟨c, rfl⟩ : ∃ c, p = c + 2 := ⟨p - 2, by omega⟩
    refine ⟨2 ^ (c + 1), t + 1, by simp, ?_, ⟨2 ^ c, by ring⟩, ?_⟩
    · rw [abs_of_pos (by positivity)]
      exact pow_lt_pow_right₀ (by norm_num) (by omega)
    · have : (q : ℝ) + 1 = 2 ^ (c + 2) := by exact_mod_cast le_antisymm hhi h
      rw [this, zpow_add_one₀ two_ne_zero]
      push_cast
      ring

/-- At the unit of `roundTo` the integer part has exactly `p` bits. -/
theorem splitAt_roundTo {m : Mag} {x : ℝ} {p : ℕ} (hp : 1 ≤ p) (h : m.Denotes x) (hn : m.n ≠ 0)
    (hm : m.more = true → p ≤ m.n.log2) :
    2 ^ (p - 1) ≤ (splitAt m (m.log2 - p + 1)).1 ∧ (splitAt m (m.log2 - p + 1)).1 < 2 ^ p := by
  obtain ⟨h1, h2⟩ := splitAt_bounds h (t := m.log2 - p + 1) fun hmore => by
    have := hm hmore
    unfold Mag.log2
    omega
  obtain ⟨hl1, hl2⟩ := h.log2_bounds hn
  generalize (splitAt m (m.log2 - p + 1)).1 = q at *
  have hu : (0 : ℝ) < 2 ^ (m.log2 - p + 1) := by positivity
  have hlo : (2 : ℝ) ^ m.log2 = 2 ^ (p - 1) * 2 ^ (m.log2 - p + 1) := by
    rw [two_pow_toNat (by omega : m.log2 - p + 1 ≤ m.log2)]
    congr 2
    omega
  have hhi : (2 : ℝ) ^ (m.log2 + 1) = 2 ^ p * 2 ^ (m.log2 - p + 1) := by
    rw [two_pow_toNat (by omega : m.log2 - p + 1 ≤ m.log2 + 1)]
    congr 2
    omega
  rw [hlo] at hl1
  rw [hhi] at hl2
  constructor
  · have : (2 : ℝ) ^ (p - 1) < q + 1 := lt_of_mul_lt_mul_right (hl1.trans_lt h2) hu.le
    exact Nat.lt_succ_iff.mp (by exact_mod_cast this)
  · exact_mod_cast lt_of_mul_lt_mul_right (h1.trans_lt hl2) hu.le

/-- R130. -/
theorem roundTo_roundedAmong {neg : Bool} {rc : Rounding} {m : Mag} {p : ℕ} {x : ℝ} (hp : 2 ≤ p) (hn : m.n ≠ 0)
    (h : m.Denotes x) (hm : m.more = true → p ≤ m.n.log2) :
    RoundedAmong (Representable p) (EvenSignificand p) rc neg x (roundTo neg rc m p) := by
  obtain ⟨hlo, hhi⟩ := splitAt_roundTo (by omega) h hn hm
  refine roundUnit_roundedAmong representable_neg evenSignificand_neg h (fun hmore => ?_)
    (neighbours_representable _ (by omega) hlo hhi) (evenSignificand_of_even _ hlo hhi)
    (evenSignificand_of_even_succ _ hp hlo hhi)
  have := hm hmore
  unfold Mag.log2
  omega

/-- R131 and the unit of R137. -/
theorem roundUnit_multiple {neg : Bool} {rc : Rounding} {m : Mag} {t : ℤ} {x : ℝ} (h : m.Denotes x)
    (hm : m.more = true → m.k < t) :
    RoundedAmong (Multiple t) (EvenMultiple t) rc neg x (roundUnit neg rc m t) :=
  roundUnit_roundedAmong multiple_neg evenMultiple_neg h hm (neighbours_multiple _ t) (evenMultiple_of_even t)
    (evenMultiple_of_even_succ t)

/-- Settles O36: the model's unit makes the neighbours of `p` bits the integer part and its successor. -/
theorem roundingIsTableTwoFive : Obligations.RoundingIsTableTwoFive := by
  intro neg rc m p x hp hn h hm
  obtain ⟨hrounds, hinexact, hup⟩ := roundTo_roundedAmong (neg := neg) (rc := rc) hp hn h hm
  exact ⟨hrounds, hinexact, hup⟩

end Sys2Proof

/-! # Values of patterns, packing and delivery (R121, R134 to R138)

The value of a pattern is its sign times its magnitude.  `pack` keeps the value of a rounded number in the normal range,
and of a multiple of the least unit below it; what `deliver` answers follows from the rounding. -/

namespace Sys2Proof

/-! ## Values of patterns -/

/-- The number that an exact magnitude stands for. -/
def Mag.val (m : Mag) : ℚ := m.n * 2 ^ m.k

theorem Mag.denotes_val {m : Mag} (h : m.more = false) : m.Denotes (m.val : ℝ) := by
  unfold Mag.Denotes
  rw [h]
  simp [Mag.val]

theorem signOf_mul_self (b : Bool) : signOf b * signOf b = 1 := by cases b <;> norm_num [signOf]
theorem signOf_ne_zero (b : Bool) : signOf b ≠ 0 := by cases b <;> norm_num [signOf]
theorem abs_signOf (b : Bool) : |signOf b| = 1 := by cases b <;> norm_num [signOf]
theorem signOf_bne (a b : Bool) : signOf (a != b) = signOf a * signOf b := by cases a <;> cases b <;> norm_num [signOf]
theorem signOf_not (a : Bool) : signOf (!a) = -signOf a := by cases a <;> norm_num [signOf]

theorem Mag.val_nonneg (m : Mag) : 0 ≤ m.val := by unfold Mag.val; positivity

theorem Mag.val_eq_zero {m : Mag} : m.val = 0 ↔ m.n = 0 := by
  unfold Mag.val
  rw [mul_eq_zero, Nat.cast_eq_zero, or_iff_left (zpow_ne_zero _ two_ne_zero)]

/-- R121 in one line. -/
theorem Ext.val_eq (x : Ext) : x.val = signOf x.sign * x.mag.val := by
  have unit : ∀ e : ℤ, (2 : ℚ) ^ (e - 16446) = 2 ^ (e - 16383) / 2 ^ 63 := fun e => by
    rw [eq_div_iff (by positivity), ← zpow_natCast, ← zpow_add₀ two_ne_zero]
    congr 1
    push_cast
    ring
  unfold Ext.val Mag.val Ext.mag
  split
  · rw [unit 1, show (1 : ℤ) - 16383 = -16382 by norm_num]
    ring
  · rw [unit]
    ring

theorem Ext.abs_val (x : Ext) : |x.val| = x.mag.val := by
  rw [Ext.val_eq, abs_mul, abs_signOf, one_mul, abs_of_nonneg x.mag.val_nonneg]

theorem Ext.mag_more (x : Ext) : x.mag.more = false := rfl

theorem val_zeroExt (s : Bool) : (zeroExt s).val = 0 := by
  rw [Ext.val_eq, show (zeroExt s).mag.val = 0 from Mag.val_eq_zero.mpr rfl, mul_zero]

theorem classify_zeroExt (s : Bool) : classify (zeroExt s) = .zero := by cases s <;> decide

theorem Ext.mag_n_of_zero {x : Ext} (h : x.isZero = true) : x.mag.n = 0 := by
  have hc : classify x = .zero := by simpa [Ext.isZero] using h
  unfold classify at hc
  split at hc
  · split at hc
    next h0 => rw [show x.mag.n = x.sig.toNat from rfl, h0]; rfl
    · split at hc <;> cases hc
  · split at hc
    · split at hc
      · split at hc
        · cases hc
        · split at hc <;> cases hc
      · cases hc
    · cases hc

theorem getLsbD_63 (b : BitVec 64) : b.getLsbD 63 = true ↔ 2 ^ 63 ≤ b.toNat := by
  have := b.isLt
  rw [BitVec.getLsbD, Nat.testBit_eq_decide_div_mod_eq, decide_eq_true_iff]
  omega

/-- The normal patterns (R140, R144). -/
theorem classify_normal {x : Ext} : classify x = .normal ↔ x.exp ≠ 0 ∧ x.exp ≠ expMax ∧ 2 ^ 63 ≤ x.sig.toNat := by
  rw [← getLsbD_63]
  unfold classify
  split
  next h0 =>
    rw [iff_false_right (fun h => h.1 h0)]
    split
    · nofun
    · split <;> nofun
  next h0 =>
    split
    next h63 =>
      split
      next hmax =>
        rw [iff_false_right (fun h => h.2.1 hmax)]
        split
        · nofun
        · split <;> nofun
      next hmax => exact ⟨fun _ => ⟨h0, hmax, h63⟩, fun _ => rfl⟩
    next h63 => exact ⟨nofun, fun h => absurd h.2.2 h63⟩

theorem log2_sig {b : BitVec 64} (h : 2 ^ 63 ≤ b.toNat) : b.toNat.log2 = 63 :=
  (Nat.log2_eq_iff (by omega)).mpr ⟨h, b.isLt⟩

/-- A normal number's magnitude. -/
theorem normal_mag {x : Ext} (h : classify x = .normal) :
    x.mag.n.log2 = 63 ∧ x.mag.n ≠ 0 ∧ x.mag.log2 = x.exp.toNat - 16383 ∧ -16382 ≤ x.mag.log2 ∧ x.mag.log2 ≤ 16383 := by
  obtain ⟨h0, hmax, hsig⟩ := classify_normal.mp h
  have hn : x.mag.n = x.sig.toNat := rfl
  have hlog : x.mag.n.log2 = 63 := log2_sig hsig
  have hk : x.mag.k = x.exp.toNat - 16446 := by
    unfold Ext.mag
    rw [if_neg h0]
  have hpos : x.exp.toNat ≠ 0 := fun h => h0 (BitVec.eq_of_toNat_eq h)
  have hlt : x.exp.toNat ≠ 0x7FFF := fun h => hmax (BitVec.eq_of_toNat_eq h)
  have := x.exp.isLt
  unfold Mag.log2
  rw [hlog, hk]
  refine ⟨rfl, by rw [hn]; omega, ?_, ?_, ?_⟩ <;> push_cast <;> omega

theorem ordinary_cases {x : Ext} (h : x.ordinary = true) : x.isZero = true ∨ classify x = .normal := by
  simpa [Ext.ordinary, Ext.isZero] using h

theorem Ext.val_of_zero {x : Ext} (h : x.isZero = true) : x.val = 0 := by
  rw [Ext.val_eq, Mag.val_eq_zero.mpr (Ext.mag_n_of_zero h), mul_zero]

theorem Ext.val_ne_zero {x : Ext} (h : classify x = .normal) : x.val ≠ 0 := by
  rw [Ext.val_eq]
  exact mul_ne_zero (signOf_ne_zero _) (mt Mag.val_eq_zero.mp (normal_mag h).2.1)

/-! ## Significands with their highest 1 in bit 63 -/

theorem alignSig_spec {n : ℕ} (h0 : n ≠ 0) (h : n ≤ 2 ^ 64) :
    2 ^ 63 ≤ (alignSig n).toNat ∧ (alignSig n).toNat * 2 ^ n.log2 = n * 2 ^ 63 := by
  have hlo := Nat.log2_self_le h0
  have hhi := n.lt_log2_self
  unfold alignSig
  rw [BitVec.toNat_ofNat]
  split
  next hle =>
    obtain ⟨c, hc⟩ : ∃ c, 63 = n.log2 + c := ⟨63 - n.log2, by omega⟩
    have hsub : 63 - n.log2 = c := by omega
    rw [hsub, Nat.shiftLeft_eq]
    have hpow : (2 : ℕ) ^ 63 = 2 ^ n.log2 * 2 ^ c := by rw [← pow_add, ← hc]
    have hlt : n * 2 ^ c < 2 ^ 64 := by
      calc n * 2 ^ c < 2 ^ (n.log2 + 1) * 2 ^ c := by gcongr
        _ = 2 ^ 64 := by rw [← pow_add]; congr 1; omega
    rw [Nat.mod_eq_of_lt hlt]
    exact ⟨by rw [hpow]; gcongr, by rw [hpow]; ring⟩
  next hgt =>
    have hlog : n.log2 = 64 := by
      have : 2 ^ n.log2 ≤ 2 ^ 64 := hlo.trans h
      have := (Nat.pow_le_pow_iff_right (by norm_num)).mp this
      omega
    rw [hlog] at hlo
    have : n = 2 ^ 64 := le_antisymm h hlo
    rw [hlog, this]
    decide

/-- A pattern with an exponent field of the normal range and bit 63 of its significand set. -/
theorem normal_pattern {s : Bool} {e : ℤ} {b : BitVec 64} (hlo : -16382 ≤ e) (hhi : e ≤ 16383) (hb : 2 ^ 63 ≤ b.toNat) :
    classify ⟨s, BitVec.ofInt 15 (e + 16383), b⟩ = .normal
      ∧ Ext.val ⟨s, BitVec.ofInt 15 (e + 16383), b⟩ = signOf s * (b.toNat * 2 ^ (e - 63)) := by
  have hexp : (BitVec.ofInt 15 (e + 16383)).toNat = (e + 16383).toNat := by
    rw [BitVec.toNat_ofInt]
    congr 1
    rw [Int.emod_eq_of_lt] <;> push_cast <;> omega
  have hne : ∀ c : BitVec 15, (e + 16383).toNat ≠ c.toNat → BitVec.ofInt 15 (e + 16383) ≠ c := fun c hc h =>
    hc (by rw [← hexp, h])
  have h0 : BitVec.ofInt 15 (e + 16383) ≠ 0 := hne _ (by simp; omega)
  refine ⟨classify_normal.mpr ⟨h0, hne _ (by simp [expMax]; omega), hb⟩, ?_⟩
  rw [Ext.val_eq]
  unfold Ext.mag Mag.val
  rw [if_neg h0, hexp]
  simp only
  congr 3
  omega

/-! ## `pack` (R134) -/

/-- A rounded value in the normal range keeps its value. -/
theorem pack_normal (s : Bool) {r : Rounded} (h0 : r.n ≠ 0) (h : r.n ≤ 2 ^ 64) (hlo : -16382 ≤ r.log2)
    (hhi : r.log2 ≤ 16383) :
    classify (pack s r) = .normal ∧ (pack s r).val = r.val s ∧ (pack s r).sign = s := by
  obtain ⟨hsig, hval⟩ := alignSig_spec h0 h
  obtain ⟨hc, hv⟩ := normal_pattern (s := s) hlo hhi hsig
  rw [pack, if_neg h0, if_pos hlo]
  refine ⟨hc, ?_, rfl⟩
  rw [hv, Rounded.val]
  congr 1
  have hvalQ : ((alignSig r.n).toNat : ℚ) * 2 ^ r.n.log2 = r.n * 2 ^ 63 := by exact_mod_cast hval
  rw [Rounded.log2, show (r.n.log2 : ℤ) + r.k - 63 = r.n.log2 + (r.k - 63) by ring, zpow_add₀ two_ne_zero,
    zpow_natCast, ← mul_assoc, hvalQ, mul_assoc]
  congr 1
  rw [← zpow_natCast, ← zpow_add₀ two_ne_zero]
  congr 1
  push_cast
  ring

/-- A rounded value below the normal range that is a multiple of the least unit keeps its value. -/
theorem pack_denormal (s : Bool) {r : Rounded} (h0 : r.n ≠ 0) (hk : -16445 ≤ r.k) (hlt : r.log2 < -16382) :
    (pack s r).val = r.val s ∧ (pack s r).sign = s := by
  rw [pack, if_neg h0, if_neg (not_le.mpr hlt)]
  refine ⟨?_, rfl⟩
  obtain ⟨c, hc⟩ : ∃ c : ℕ, r.k + 16445 = c := ⟨_, (Int.toNat_of_nonneg (by omega)).symm⟩
  have hlt : r.n <<< c < 2 ^ 64 := by
    rw [Nat.shiftLeft_eq]
    have hn := r.n.lt_log2_self
    unfold Rounded.log2 at hlt
    calc r.n * 2 ^ c < 2 ^ (r.n.log2 + 1) * 2 ^ c := by gcongr
      _ = 2 ^ (r.n.log2 + 1 + c) := (pow_add ..).symm
      _ ≤ 2 ^ 64 := Nat.pow_le_pow_right (by norm_num) (by omega)
  rw [Ext.val_eq, Rounded.val]
  congr 1
  unfold Ext.mag Mag.val shiftUp
  rw [if_pos rfl]
  simp only [hc, Int.toNat_natCast, BitVec.toNat_ofNat]
  rw [Nat.mod_eq_of_lt hlt, Nat.shiftLeft_eq, show r.k = c + (1 - 16446) by omega, zpow_add₀ two_ne_zero,
    zpow_natCast, ← mul_assoc, Nat.cast_mul, Nat.cast_pow, Nat.cast_two]

/-- `exactExt` is `pack` of the number it is given. -/
theorem exactExt_eq_pack {s : Bool} {n : ℕ} {k : ℤ} (h0 : n ≠ 0) (hlo : -16382 ≤ n.log2 + k) :
    exactExt s n k = pack s { n := n, k := k, inexact := false, up := false } := by
  exact ((if_neg h0).trans (if_pos hlo)).symm

/-- An exact pattern has its value. -/
theorem exactExt_spec {s : Bool} {n : ℕ} {k : ℤ} (h0 : n ≠ 0) (h : n ≤ 2 ^ 64) (hlo : -16382 ≤ n.log2 + k)
    (hhi : n.log2 + k ≤ 16383) :
    classify (exactExt s n k) = .normal ∧ (exactExt s n k).val = signOf s * (n * 2 ^ k) ∧ (exactExt s n k).sign = s := by
  rw [exactExt_eq_pack h0 hlo]
  exact pack_normal s (r := { n := n, k := k, inexact := false, up := false }) h0 h hlo hhi

/-! ## The size of a rounded number -/

/-- Rounding does not go past a candidate. -/
theorem roundsAmong_le {C E : ℝ → Prop} {rc : Rounding} {x y z : ℝ} (h : RoundsAmong C E rc x y) (hx : 0 < x) (hz : C z)
    (hxz : x ≤ z) : y ≤ z := by
  obtain ⟨-, h⟩ := h
  cases rc with
  | down => exact h.1.trans hxz
  | up => exact h.2 z hz hxz
  | chop => exact (le_abs_self y).trans (h.1.trans ((abs_of_pos hx).le.trans hxz))
  | nearest =>
    by_contra hlt
    have := h.1 z hz
    rw [abs_of_nonpos (by linarith), abs_of_nonpos (by linarith)] at this
    linarith

/-- A rounded number other than zero lies in the binade of its logarithm. -/
theorem Rounded.log2_bounds {r : Rounded} (h0 : r.n ≠ 0) :
    (2 : ℝ) ^ r.log2 ≤ r.n * 2 ^ r.k ∧ (r.n : ℝ) * 2 ^ r.k < 2 ^ (r.log2 + 1) :=
  Mag.Denotes.log2_bounds (m := { n := r.n, k := r.k }) rfl h0

theorem log2_mono_of_le {n : ℕ} {a b : ℕ} (hlo : 2 ^ a ≤ n) (hhi : n ≤ 2 ^ b) : a ≤ n.log2 ∧ n.log2 ≤ b := by
  have hn : n ≠ 0 := (Nat.pow_pos (n := a) two_pos).trans_le hlo |>.ne'
  refine ⟨(Nat.le_log2 hn).mpr hlo, ?_⟩
  have := (Nat.log2_self_le hn).trans hhi
  exact (Nat.pow_le_pow_iff_right (by norm_num)).mp this

theorem roundUnit_n (neg : Bool) (rc : Rounding) (m : Mag) (t : ℤ) :
    (splitAt m t).1 ≤ (roundUnit neg rc m t).n ∧ (roundUnit neg rc m t).n ≤ (splitAt m t).1 + 1 := by
  simp only [roundUnit]
  split <;> omega

section RoundTo

variable {neg : Bool} {rc : Rounding} {m : Mag} {p : ℕ} {x : ℝ}

/-- A number rounded to `p` bits has `p` bits, or is the power of two above. -/
theorem roundTo_n (hp : 1 ≤ p) (h : m.Denotes x) (hn : m.n ≠ 0) (hm : m.more = true → p ≤ m.n.log2) :
    2 ^ (p - 1) ≤ (roundTo neg rc m p).n ∧ (roundTo neg rc m p).n ≤ 2 ^ p := by
  obtain ⟨hlo, hhi⟩ := splitAt_roundTo hp h hn hm
  obtain ⟨h1, h2⟩ := roundUnit_n neg rc m (m.log2 - p + 1)
  exact ⟨hlo.trans h1, h2.trans hhi⟩

/-- Rounding to `p` bits raises the exponent by at most one. -/
theorem roundTo_log2 (hp : 1 ≤ p) (h : m.Denotes x) (hn : m.n ≠ 0) (hm : m.more = true → p ≤ m.n.log2) :
    m.log2 ≤ (roundTo neg rc m p).log2 ∧ (roundTo neg rc m p).log2 ≤ m.log2 + 1 := by
  obtain ⟨hlo, hhi⟩ := roundTo_n (neg := neg) (rc := rc) hp h hn hm
  obtain ⟨h1, h2⟩ := log2_mono_of_le hlo hhi
  have hk : (roundTo neg rc m p).k = m.log2 - p + 1 := rfl
  unfold Rounded.log2
  rw [hk]
  omega

theorem roundTo_ne_zero (hp : 1 ≤ p) (h : m.Denotes x) (hn : m.n ≠ 0) (hm : m.more = true → p ≤ m.n.log2) :
    (roundTo neg rc m p).n ≠ 0 :=
  ((Nat.pow_pos two_pos).trans_le (roundTo_n (neg := neg) (rc := rc) hp h hn hm).1).ne'

/-- Rounding to `p` bits stays below the power of two when the number is not above the largest number of `p` bits
there. -/
theorem roundTo_log2_lt {a : ℤ} (hp : 2 ≤ p) (h : m.Denotes x) (hn : m.n ≠ 0) (hm : m.more = true → p ≤ m.n.log2)
    (hx : x ≤ (1 - 2 ^ (-p : ℤ)) * 2 ^ a) : (roundTo neg rc m p).log2 < a := by
  have hpos : 0 < x := h.pos fun h0 => hn h0.1
  have hrounded := roundTo_roundedAmong (neg := false) (rc := if neg then rc.flip else rc) hp hn h hm
  have hsame : roundTo false (if neg then rc.flip else rc) m p = roundTo neg rc m p := by
    cases neg
    · rfl
    · simp only [roundTo, roundUnit, roundsUp_flip, if_true]
  have hle := roundsAmong_le (x := x) (z := (1 - 2 ^ (-p : ℤ)) * 2 ^ a)
    (by simpa [signOf_cast] using hrounded.rounds) hpos ?_ hx
  · rw [hsame, Rounded.val_cast, signOf_cast] at hle
    simp only [Bool.false_eq_true, if_false, one_mul] at hle
    have hlow := (Rounded.log2_bounds (roundTo_ne_zero (neg := neg) (rc := rc) (by omega) h hn hm)).1
    refine (zpow_lt_zpow_iff_right₀ one_lt_two).mp (hlow.trans_lt (hle.trans_lt ?_))
    have h1 : (0 : ℝ) < 2 ^ (-p : ℤ) := by positivity
    have h2 : (0 : ℝ) < 2 ^ a := by positivity
    nlinarith
  · refine ⟨2 ^ p - 1, a - p, ?_, ?_⟩
    · have := one_lt_pow₀ (one_lt_two (α := ℤ)) (by omega : p ≠ 0)
      rw [abs_of_nonneg (by omega)]
      omega
    · push_cast
      rw [zpow_sub₀ two_ne_zero, zpow_neg, zpow_natCast]
      field_simp

end RoundTo

/-- The exponent of a magnitude is the logarithm of every number it may stand for. -/
theorem Mag.Denotes.log_eq {m : Mag} {x : ℝ} (h : m.Denotes x) (hn : m.n ≠ 0) : Int.log 2 x = m.log2 := by
  obtain ⟨h1, h2⟩ := h.log2_bounds hn
  have hx : 0 < x := lt_of_lt_of_le (by positivity) h1
  have hlo : m.log2 ≤ Int.log 2 x := (Int.zpow_le_iff_le_log Nat.one_lt_two hx).mp (by exact_mod_cast h1)
  have hhi : Int.log 2 x < m.log2 + 1 := (Int.lt_zpow_iff_log_lt Nat.one_lt_two hx).mp (by exact_mod_cast h2)
  omega

theorem Mag.Denotes.le_log2 {m : Mag} {x : ℝ} (h : m.Denotes x) (hn : m.n ≠ 0) {a : ℤ} (hx : 2 ^ a ≤ x) :
    a ≤ m.log2 :=
  Int.lt_add_one_iff.mp ((zpow_lt_zpow_iff_right₀ one_lt_two).mp (hx.trans_lt (h.log2_bounds hn).2))

theorem Mag.Denotes.log2_lt {m : Mag} {x : ℝ} (h : m.Denotes x) (hn : m.n ≠ 0) {a : ℤ} (hx : x < 2 ^ a) :
    m.log2 < a :=
  (zpow_lt_zpow_iff_right₀ one_lt_two).mp ((h.log2_bounds hn).1.trans_lt hx)

theorem Mag.Denotes.scale {m : Mag} {x : ℝ} (h : m.Denotes x) (j : ℤ) : (m.scale j).Denotes (x * 2 ^ j) := by
  have hj : (0 : ℝ) < 2 ^ j := by positivity
  unfold Mag.Denotes at h ⊢
  rw [show (m.scale j).more = m.more from rfl, show (m.scale j).n = m.n from rfl, show (m.scale j).k = m.k + j from rfl,
    zpow_add₀ two_ne_zero, ← mul_assoc, ← mul_assoc]
  split at h
  next hmore =>
    rw [if_pos hmore]
    exact ⟨by gcongr; exact h.1, by gcongr; exact h.2⟩
  next hmore => rw [if_neg hmore, h]

theorem Mag.log2_scale (m : Mag) (j : ℤ) : (m.scale j).log2 = m.log2 + j := by
  unfold Mag.log2 Mag.scale
  ring

/-! ## Delivery (R134 to R138) -/

open Machine

/-- What a delivery tells of the exact number `e`. -/
structure DeliversAmong (C E : ℝ → Prop) (rc : Rounding) (e : ℝ) (d : Delivery Ext) : Prop where
  rounds : RoundsAmong C E rc e (d.val.val : ℝ)
  inexact : d.inexact = true ↔ (d.val.val : ℝ) ≠ e
  c1 : d.c1 = true ↔ |e| < |(d.val.val : ℝ)|

theorem deliversAmong_pack {C E : ℝ → Prop} {rc : Rounding} {neg : Bool} {x : ℝ} {y : Rounded} (fs : List Exc)
    (h : RoundedAmong C E rc neg x y) (hv : (pack neg y).val = y.val neg) :
    DeliversAmong C E rc ((signOf neg : ℚ) * x) (.rounded (pack neg y) fs y) := by
  constructor
  · exact hv ▸ h.rounds
  · exact hv ▸ h.inexact
  · exact hv ▸ h.up

/-- What a delivery in the normal range is. -/
structure DeliversNormal (p : ℕ) (rc : Rounding) (e : ℝ) (fs : List Exc) (d : Delivery Ext) : Prop
    extends DeliversAmong (Representable p) (EvenSignificand p) rc e d where
  normal : classify d.val = .normal
  flags : d.flags = if d.inexact then fs ++ [.pe] else fs

section Deliver

variable {neg : Bool} {rc : Rounding} {m : Mag} {p : ℕ} {x : ℝ} (hp : 2 ≤ p) (hp64 : p ≤ 64) (hn : m.n ≠ 0)
  (h : m.Denotes x) (hm : m.more = true → p ≤ m.n.log2)
include hp hp64 hn h hm

theorem deliversNormal_pack (fs : List Exc) (hlo : -16382 ≤ (roundTo neg rc m p).log2)
    (hhi : (roundTo neg rc m p).log2 ≤ 16383) :
    DeliversNormal p rc ((signOf neg : ℚ) * x) fs (.rounded (pack neg (roundTo neg rc m p)) fs (roundTo neg rc m p)) := by
  obtain ⟨hc, hv, -⟩ := pack_normal neg (roundTo_ne_zero (neg := neg) (rc := rc) (by omega) h hn hm)
    ((roundTo_n (neg := neg) (rc := rc) (by omega) h hn hm).2.trans (Nat.pow_le_pow_right two_pos hp64)) hlo hhi
  exact ⟨deliversAmong_pack fs (roundTo_roundedAmong hp hn h hm) hv, hc, rfl⟩

/-- A result in range is delivered rounded (R134). -/
theorem deliver_inRange (cw : Word16) (before : Bool) (hlo : 2 ^ (-16382 : ℤ) ≤ x) (hhi : x < 2 ^ (16383 : ℤ)) :
    DeliversNormal p rc ((signOf neg : ℚ) * x) [] (deliver cw before neg m p rc) := by
  have h1 := h.le_log2 hn hlo
  have h2 := h.log2_lt hn hhi
  obtain ⟨h3, h4⟩ := roundTo_log2 (neg := neg) (rc := rc) (by omega) h hn hm
  have hspec := deliversNormal_pack (neg := neg) (rc := rc) hp hp64 hn h hm [] (by omega) (by omega)
  rcases deliver_cases cw before neg m p rc with ⟨hover, -⟩ | ⟨-, htiny, -⟩ | ⟨-, -, hd⟩
  · omega
  · unfold isTiny at htiny
    have := of_decide_eq_true htiny
    split at this <;> omega
  · rwa [hd]

/-- An overflow is answered as such (R134). -/
theorem deliver_over (cw : Word16) (before : Bool) (hlo : 2 ^ (16384 : ℤ) ≤ x) :
    deliver cw before neg m p rc = deliverOver cw neg m p rc := by
  have h1 := h.le_log2 hn hlo
  have h2 := (roundTo_log2 (neg := neg) (rc := rc) (by omega) h hn hm).1
  exact if_pos (by omega)

/-- Below the normal range a result is tiny, judged before or after rounding (R137, D20). -/
theorem deliver_tiny (cw : Word16) (before : Bool) (hx : x ≤ (1 - 2 ^ (-p : ℤ)) * 2 ^ (-16382 : ℤ)) :
    deliver cw before neg m p rc = deliverTiny cw before neg m p rc := by
  have h1 := (roundTo_log2 (neg := neg) (rc := rc) (by omega) h hn hm).1
  have h2 := roundTo_log2_lt (neg := neg) (rc := rc) hp h hn hm hx
  have htiny : isTiny before (-16382) m (roundTo neg rc m p) = true := by
    unfold isTiny
    rw [decide_eq_true_iff]
    split <;> omega
  exact (if_neg (by omega)).trans (if_pos htiny)

/-- R134, R138: the unmasked overflow response. -/
theorem deliverOver_unmasked (cw : Word16) (hlo : 2 ^ (16384 : ℤ) ≤ x) (hhi : x < 2 ^ (32766 : ℤ))
    (hmask : masked cw .oe = false) :
    DeliversNormal p rc ((signOf neg : ℚ) * (x * 2 ^ (-24576 : ℤ))) [.oe] (deliverOver cw neg m p rc) := by
  have h1 := h.le_log2 hn hlo
  have h2 := h.log2_lt hn hhi
  have hscaled := h.scale (-24576)
  have hlog := m.log2_scale (-24576)
  obtain ⟨h3, h4⟩ := roundTo_log2 (neg := neg) (rc := rc) (by omega) hscaled hn hm
  have hover : ¬16383 < (roundTo neg rc (m.scale (-24576)) p).log2 := by omega
  have hpack := deliversNormal_pack (neg := neg) (rc := rc) (m := m.scale (-24576)) hp hp64 hn hscaled hm [.oe]
    (by omega) (by omega)
  rwa [deliverOver, if_neg (by simp [hmask]), if_neg hover]

/-- R137, R138: the unmasked underflow response. -/
theorem deliverTiny_unmasked (cw : Word16) (before : Bool) (hlo : 2 ^ (-40958 : ℤ) ≤ x) (hhi : x < 2 ^ (-16382 : ℤ))
    (hmask : masked cw .ue = false) :
    DeliversNormal p rc ((signOf neg : ℚ) * (x * 2 ^ (24576 : ℤ))) [.ue] (deliverTiny cw before neg m p rc) := by
  have h1 := h.le_log2 hn hlo
  have h2 := h.log2_lt hn hhi
  have hscaled := h.scale 24576
  have hlog := m.log2_scale 24576
  obtain ⟨h3, h4⟩ := roundTo_log2 (neg := neg) (rc := rc) (by omega) hscaled hn hm
  have htiny : isTiny before (-16382) (m.scale 24576) (roundTo neg rc (m.scale 24576) p) ≠ true := by
    unfold isTiny
    rw [ne_eq, decide_eq_true_iff]
    split <;> omega
  have hpack := deliversNormal_pack (neg := neg) (rc := rc) (m := m.scale 24576) hp hp64 hn hscaled hm [.ue]
    (by omega) (by omega)
  rwa [deliverTiny, if_neg (by simp [hmask]), if_neg htiny]

end Deliver

/-- A multiple of the least unit, up to the normal range, keeps its value. -/
theorem pack_multiple (s : Bool) {r : Rounded} (hk : -16445 ≤ r.k) (hn : r.n ≤ 2 ^ 64) (hhi : r.log2 ≤ 16383) :
    (pack s r).val = r.val s ∧ (pack s r).sign = s := by
  by_cases h0 : r.n = 0
  · rw [pack, if_pos h0, val_zeroExt, Rounded.val, h0]
    exact ⟨by simp, rfl⟩
  · rcases le_or_gt (-16382) r.log2 with hlo | hlo
    · exact (pack_normal s h0 hn hlo hhi).2
    · exact pack_denormal s h0 hk hlo

/-- R137: the masked underflow response. -/
theorem deliverTiny_masked {neg : Bool} {rc : Rounding} {m : Mag} {p : ℕ} {x : ℝ} (cw : Word16) (before : Bool)
    (hn : m.n ≠ 0) (h : m.Denotes x) (hm : m.more = true → p ≤ m.n.log2) (hhi : x < 2 ^ (-16382 : ℤ))
    (hmask : masked cw .ue = true) :
    let u := max (Int.log 2 x - p + 1) (-16445)
    let d := deliverTiny cw before neg m p rc
    DeliversAmong (Multiple u) (EvenMultiple u) rc ((signOf neg : ℚ) * x) d ∧ d.val.sign = neg
      ∧ d.flags = if d.inexact then [.ue, .pe] else [] := by
  intro u d
  have hu : u = max (m.log2 - p + 1) (-16445) := by rw [← h.log_eq hn]
  have hd : d = .rounded (pack neg (roundUnit neg rc m u)) (if (roundUnit neg rc m u).inexact then [.ue] else [])
      (roundUnit neg rc m u) := by
    rw [hu]
    exact if_pos hmask
  have hmore : m.more = true → m.k < u := fun hmore => by
    have := hm hmore
    unfold Mag.log2 at hu
    omega
  have hsmall : (roundUnit neg rc m u).n ≤ 2 ^ 63 := by
    refine (roundUnit_n neg rc m u).2.trans ?_
    have hq := (splitAt_bounds h hmore).1.trans_lt hhi
    have hle : (2 : ℝ) ^ (-16382 : ℤ) ≤ 2 ^ 63 * 2 ^ u := by
      rw [← zpow_natCast, ← zpow_add₀ two_ne_zero]
      exact zpow_le_zpow_right₀ one_le_two (by push_cast; omega)
    have : ((splitAt m u).1 : ℝ) < 2 ^ 63 := lt_of_mul_lt_mul_right (hq.trans_le hle) (by positivity)
    exact_mod_cast this
  have hlog : (roundUnit neg rc m u).log2 ≤ 16383 := by
    have h1 : (roundUnit neg rc m u).n.log2 ≤ 63 := by
      by_cases h0 : (roundUnit neg rc m u).n = 0
      · rw [h0]; decide
      · exact (Nat.pow_le_pow_iff_right (by norm_num)).mp ((Nat.log2_self_le h0).trans hsmall)
    have h2 : (roundUnit neg rc m u).k = u := rfl
    have h3 := h.log2_lt hn hhi
    unfold Rounded.log2
    omega
  obtain ⟨hv, hs⟩ := pack_multiple neg (show -16445 ≤ (roundUnit neg rc m u).k from le_max_right _ _)
    (hsmall.trans (by norm_num)) hlog
  rw [hd]
  refine ⟨deliversAmong_pack _ (roundUnit_multiple h hmore) hv, hs, ?_⟩
  unfold Delivery.rounded
  cases (roundUnit neg rc m u).inexact <;> rfl

/-- Settles O37: each range and mask is one branch of `deliver`. -/
theorem unmaskedOverflowIsScaled : Obligations.UnmaskedOverflowIsScaled := by
  intro cw before neg m p rc x hp hp64 hn h hm d
  have below : x ≤ (1 - 2 ^ (-p : ℤ)) * 2 ^ (-16382 : ℤ) → x < 2 ^ (-16382 : ℤ) := fun hx => by
    refine hx.trans_lt ?_
    have h1 : (0 : ℝ) < 2 ^ (-p : ℤ) := by positivity
    have h2 : (0 : ℝ) < 2 ^ (-16382 : ℤ) := by positivity
    nlinarith
  refine ⟨fun hlo hhi hmask => ?_, fun hlo hmask => ?_, fun hlo hhi hmask => ?_, fun hhi hmask => ?_⟩
  · intro e
    obtain ⟨⟨hr, hi, hc⟩, hnormal, hflags⟩ :=
      deliverOver_unmasked (neg := neg) (rc := rc) hp hp64 hn h hm cw hlo hhi hmask
    rw [← deliver_over hp hp64 hn h hm cw before hlo, ← mul_assoc] at *
    exact ⟨hr, hnormal, hflags, hi, hc⟩
  · intro inf
    have hd : d = deliverOver cw neg m p rc := deliver_over hp hp64 hn h hm cw before hlo
    have hinf : inf = overflowIsInf neg rc := by cases rc <;> rfl
    rw [hd, deliverOver, if_pos hmask, hinf]
    refine ⟨?_, rfl, rfl, rfl⟩
    unfold overflowMasked
    split
    · rfl
    · rw [Nat.shiftLeft_eq, Nat.sub_mul, one_mul, ← pow_add, Nat.add_sub_cancel' hp64]
  · intro e
    obtain ⟨⟨hr, hi, hc⟩, hnormal, hflags⟩ :=
      deliverTiny_unmasked (neg := neg) (rc := rc) hp hp64 hn h hm cw before hlo (below hhi) hmask
    rw [← deliver_tiny hp hp64 hn h hm cw before hhi, ← mul_assoc] at *
    exact ⟨hr, hnormal, hflags, hi, hc⟩
  · intro e u
    obtain ⟨⟨hr, hi, hc⟩, hsign, hflags⟩ :=
      deliverTiny_masked (neg := neg) (rc := rc) cw before hn h hm (below hhi) hmask
    rw [← deliver_tiny hp hp64 hn h hm cw before hhi] at *
    exact ⟨hr, hsign, hflags, hi, hc⟩

end Sys2Proof

/-! # Exact results and their delivery (O30)

The operations on exact magnitudes have the values of the operations on the numbers; an instruction whose result is in
range ends with that result delivered. -/

namespace Sys2Proof.Machine

/-! ## A result delivered (R133, R134) -/

theorem State.Steady.raiseAll {s t : State} (h : s.Steady t) (fs : List Exc) : s.Steady (t.raiseAll fs) := by
  obtain ⟨hr, he, -, ht, -, -⟩ := raiseAll_keeps t fs
  exact ⟨hr.trans h.regs, he.trans h.empty, ht.trans h.top⟩

theorem State.Quiet.rc {s t : State} (h : s.Quiet t) : t.rc = s.rc :=
  congrArg (fun c : Word16 => Rounding.ofBits (c.extractLsb' 10 2)) h.cw

theorem State.Quiet.setC1 {s t : State} (h : s.Quiet t) (b : Bool) : s.Quiet (t.setC1 b) :=
  ⟨h.toSteady.setC1 b, h.cw, h.errors⟩

theorem denormThen_of_eq_false {s : State} {d : Bool} {go : State → State} (h : d = false) : s.denormThen d go = go s := by
  rw [State.denormThen, h]
  rfl

/-- Any result delivered: the register, the exceptions, C1, and the pops. -/
theorem deliverTo_put_spec {s t : State} {fin : State → State} {n : Nat} (h : s.Quiet t) (hf : Pops fin n) (k : Fin 8)
    (d : Delivery Ext) :
    let w := fin (t.deliverTo k d)
    w.reg k = d.val ∧ s.Raised w d.flags ∧ w.sw.c1 = d.c1 ∧ s.KeepsRegs w [k] ∧ s.Popped w (some k) n := by
  intro w
  obtain ⟨hreg, hregs, hpopped⟩ := ((h.toSteady.raiseAll d.flags).setC1 d.c1).put hf k d.val
  refine ⟨hreg, raised_of_errors (h.raised (raiseAll_raised t d.flags)) (hf.errors _), ?_, hregs, hpopped⟩
  show (fin (t.deliverTo k d)).sw.c1 = d.c1
  rw [(hf _).2.1]
  rfl

section Begun

variable {s u t : State} {i : Instr} {fin : State → State} {n : Nat} (hb : s.Begun u i) (h : u.Quiet t) (hf : Pops fin n)
include hb h hf

theorem State.Begun.deliverTo_put (k : Fin 8) (d : Delivery Ext) :
    let w := (fin (t.deliverTo k d)).advance i
    w.reg k = d.val ∧ s.Raised w d.flags ∧ w.sw.c1 = d.c1 ∧ s.KeepsRegs w [k] ∧ s.Popped w (some k) n := by
  obtain ⟨hreg, hraised, hc1, hregs, hpopped⟩ := deliverTo_put_spec h hf k d
  exact ⟨hreg, hb.raised hraised, hc1, hb.keepsRegs hregs, hb.popped hpopped⟩

/-- A result in range. -/
theorem State.Begun.rounded_put {k : Fin 8} {neg : Bool} {m : Mag} {p : ℕ} {x e : ℝ} (hp : 2 ≤ p) (hp64 : p ≤ 64)
    (hn : m.n ≠ 0) (hm : m.Denotes x) (hmore : m.more = true → p ≤ m.n.log2) (hlo : 2 ^ (-16382 : ℤ) ≤ x)
    (hhi : x < 2 ^ (16383 : ℤ)) (he : e = (signOf neg : ℚ) * x) :
    let w := (fin (t.deliverSt k neg m p)).advance i
    rounded s w k p e ∧ s.KeepsRegs w [k] ∧ s.Popped w (some k) n := by
  intro w
  obtain ⟨⟨hrounds, hinexact, hup⟩, hnormal, hflags⟩ :=
    deliver_inRange (neg := neg) (rc := s.rc) hp hp64 hn hm hmore t.cw t.params.tinyBefore hlo hhi
  obtain ⟨hreg, hraised, hc1, hregs, hpopped⟩ := hb.deliverTo_put h hf k (deliver t.cw t.params.tinyBefore neg m p t.rc)
  have hrc : t.rc = s.rc := h.rc.trans hb.rc
  rw [hrc] at hreg hraised hc1
  have hw : w = (fin (t.deliverTo k (deliver t.cw t.params.tinyBefore neg m p s.rc))).advance i := by
    rw [← hrc]
    rfl
  rw [hrc] at hregs hpopped
  rw [hw]
  generalize deliver t.cw t.params.tinyBefore neg m p s.rc = d at *
  subst he
  refine ⟨⟨?_, ?_, fun heq => ?_, fun hne => ?_, ?_⟩, hregs, hpopped⟩
  · rwa [hreg]
  · rwa [hreg]
  · rw [hreg] at heq
    have : d.inexact = false := by
      by_contra hc
      exact hinexact.mp (by simpa using hc) heq
    simpa [hflags, this] using hraised
  · rw [hreg] at hne
    simpa [hflags, hinexact.mpr hne] using hraised
  · rw [hreg, hc1]
    exact hup

end Begun

/-! ## Exact operations on magnitudes -/

theorem mag_mul_val (a b : Mag) : (a.mul b).val = a.val * b.val := by
  unfold Mag.mul Mag.val
  push_cast
  rw [zpow_add₀ two_ne_zero]
  ring

/-- A magnitude at a unit that is not above its own. -/
theorem shiftUp_val (a : Mag) {k : ℤ} (h : k ≤ a.k) : ((shiftUp a.n (a.k - k) : ℕ) : ℚ) * 2 ^ k = a.val := by
  unfold shiftUp Mag.val
  obtain ⟨c, hc⟩ := Int.eq_ofNat_of_zero_le (show 0 ≤ a.k - k by omega)
  rw [hc, Int.toNat_natCast, Nat.shiftLeft_eq, show a.k = c + k by omega, zpow_add₀ two_ne_zero, zpow_natCast]
  push_cast
  ring

theorem addSigned_val (sa : Bool) (a : Mag) (sb : Bool) (b : Mag) :
    signOf (Mag.addSigned sa a sb b).1 * (Mag.addSigned sa a sb b).2.val = signOf sa * a.val + signOf sb * b.val
      ∧ (Mag.addSigned sa a sb b).2.more = false := by
  have hx := shiftUp_val a (min_le_left a.k b.k)
  have hy := shiftUp_val b (min_le_right a.k b.k)
  rw [← hx, ← hy]
  simp only [Mag.addSigned]
  generalize shiftUp a.n (a.k - min a.k b.k) = x
  generalize shiftUp b.n (b.k - min a.k b.k) = y
  have opposite : sa ≠ sb → signOf sa = -signOf sb := by cases sa <;> cases sb <;> simp [signOf]
  split
  next hs => exact ⟨by subst hs; simp only [Mag.val]; push_cast; ring, rfl⟩
  next hs =>
    split
    next hle => exact ⟨by simp only [Mag.val]; rw [opposite hs]; push_cast [hle]; ring, rfl⟩
    next hgt =>
      have hle : x ≤ y := by omega
      exact ⟨by simp only [Mag.val]; rw [opposite hs]; push_cast [hle]; ring, rfl⟩

/-- The quotient of two magnitudes, of which the dividend is not zero and the divisor has 64 bits. -/
theorem mag_div_spec {a b : Mag} (ha : a.n ≠ 0) (hb0 : b.n ≠ 0) (hb : b.n < 2 ^ 64) :
    ∃ m, a.div b = m ∧ m.Denotes ((a.val / b.val : ℚ) : ℝ) ∧ 129 ≤ m.n.log2 := by
  have hpos : 0 < b.n := Nat.pos_of_ne_zero hb0
  have hlarge : 2 ^ 130 ≤ (a.n <<< 194) / b.n := by
    rw [Nat.le_div_iff_mul_le hpos, Nat.shiftLeft_eq]
    have : 1 ≤ a.n := Nat.pos_of_ne_zero ha
    omega
  refine ⟨_, rfl, ?_, (Nat.le_log2 (by show (a.n <<< 194) / b.n ≠ 0; omega)).mpr ((by norm_num : 2 ^ 129 ≤ 2 ^ 130).trans hlarge)⟩
  have hquot : ((a.val / b.val : ℚ) : ℝ) = (a.n <<< 194 : ℕ) / b.n * 2 ^ (a.k - 194 - b.k) := by
    unfold Mag.val
    rw [Nat.shiftLeft_eq, zpow_sub₀ two_ne_zero, zpow_sub₀ two_ne_zero]
    push_cast
    field_simp
    norm_num
  have hdiv : ((a.n <<< 194 : ℕ) : ℝ) = b.n * ((a.n <<< 194) / b.n : ℕ) + ((a.n <<< 194) % b.n : ℕ) := by
    exact_mod_cast (Nat.div_add_mod _ _).symm
  have hmod : ((a.n <<< 194) % b.n : ℕ) < b.n := Nat.mod_lt _ hpos
  have hk : (0 : ℝ) < 2 ^ (a.k - 194 - b.k) := by positivity
  have hbR : (0 : ℝ) < b.n := by exact_mod_cast hpos
  rw [hquot]
  unfold Mag.Denotes Mag.div
  generalize (a.n <<< 194) / b.n = q at *
  generalize (a.n <<< 194) % b.n = r at *
  by_cases hr : r = 0
  · simp only [hr, bne_self_eq_false, Bool.false_eq_true, if_false]
    rw [hdiv, hr]
    field_simp
    simp
  · have hr0 : (0 : ℝ) < r := by exact_mod_cast Nat.pos_of_ne_zero hr
    have hrb : (r : ℝ) < b.n := by exact_mod_cast hmod
    simp only [bne_iff_ne, ne_eq, hr, not_false_eq_true, if_true]
    rw [hdiv]
    constructor
    · gcongr
      rw [lt_div_iff₀ hbR]
      linarith
    · gcongr
      rw [div_lt_iff₀ hbR]
      linarith

/-! ## The basic operations on zeros and normal numbers (R230 (e)) -/

/-- A sign and a magnitude that are those of the nonzero number `e`, known exactly or to many bits. -/
structure ExactlyOf (e : ℚ) (b : Bool × Mag) : Prop where
  nonzero : b.2.n ≠ 0
  denotes : b.2.Denotes ((|e| : ℚ) : ℝ)
  signed : e = signOf b.1 * |e|
  bits : b.2.more = true → 129 ≤ b.2.n.log2

theorem signOf_mul_abs {e : ℚ} {neg : Bool} {v : ℚ} (hv : 0 ≤ v) (h : signOf neg * v = e) :
    v = |e| ∧ e = signOf neg * |e| := by
  have : |e| = v := by rw [← h, abs_mul, abs_signOf, one_mul, abs_of_nonneg hv]
  rw [this]
  exact ⟨rfl, h.symm⟩

theorem mag_n_lt (x : Ext) : x.mag.n < 2 ^ 64 := x.sig.isLt

theorem signOf_div (a b : Bool) : signOf a / signOf b = signOf a * signOf b := by
  rw [div_eq_iff (signOf_ne_zero b), mul_assoc, signOf_mul_self, mul_one]

/-- A magnitude that is exact. -/
theorem exactlyOf_val {e : ℚ} {b : Bool × Mag} (he : e ≠ 0) (hmore : b.2.more = false) (h : signOf b.1 * b.2.val = e) :
    ExactlyOf e b := by
  obtain ⟨hv, hsigned⟩ := signOf_mul_abs b.2.val_nonneg h
  refine ⟨fun h0 => he ?_, hv ▸ Mag.denotes_val hmore, hsigned, fun hc => ?_⟩
  · rw [← h, Mag.val_eq_zero.mpr h0, mul_zero]
  · rw [hmore] at hc
    cases hc

/-- A magnitude of many bits. -/
theorem exactlyOf_of_bits {e v : ℚ} {neg : Bool} {m : Mag} (hv : 0 ≤ v) (h : signOf neg * v = e)
    (hd : m.Denotes (v : ℝ)) (hbits : 129 ≤ m.n.log2) : ExactlyOf e (neg, m) := by
  obtain ⟨hv, hsigned⟩ := signOf_mul_abs hv h
  refine ⟨fun h0 => ?_, hv ▸ hd, hsigned, fun _ => hbits⟩
  rw [show m.n = 0 from h0] at hbits
  exact absurd hbits (by decide)

theorem inRange.ne_zero {e : ℚ} (h : inRange e) : e ≠ 0 := by
  rintro rfl
  have := h.1
  rw [abs_zero] at this
  exact absurd this (not_le.mpr (by positivity))

theorem isZero_eq_false {x : Ext} (h : x.val ≠ 0) : x.isZero = false := by
  by_contra hz
  exact h (Ext.val_of_zero (by simpa using hz))

theorem mag_n_ne_zero {x : Ext} (h : x.val ≠ 0) : x.mag.n ≠ 0 := fun h0 => h (by
  rw [Ext.val_eq, Mag.val_eq_zero.mpr h0, mul_zero])

/-- What the classes of a zero or normal number exclude. -/
theorem ordinary_class {x : Ext} (h : x.ordinary = true) :
    x.isInf = false ∧ x.isDenorm = false ∧ Ext.isNumber x = true := by
  unfold Ext.ordinary at h
  unfold Ext.isNumber Ext.isInf Ext.isDenorm Ext.isUnsupported Ext.isNan
  revert h
  cases classify x <;> decide

/-- A subtraction as an addition of the negated operand. -/
theorem negExt_sum (x y : Ext) :
    signOf x.sign * x.mag.val + signOf (negExt y).sign * (negExt y).mag.val = x.val - y.val := by
  show signOf x.sign * x.mag.val + signOf (!y.sign) * y.mag.val = x.val - y.val
  rw [signOf_not, Ext.val_eq, Ext.val_eq]
  ring

/-- A sum that is not zero is the exact sum. -/
theorem exactlyOf_add {x y : Ext} {e : ℚ} (he : e ≠ 0) (h : signOf x.sign * x.mag.val + signOf y.sign * y.mag.val = e) :
    ExactlyOf e (Mag.addSigned x.sign x.mag y.sign y.mag) := by
  obtain ⟨hv, hmore⟩ := addSigned_val x.sign x.mag y.sign y.mag
  exact exactlyOf_val he hmore (hv.trans h)

theorem addSpecial_none {rc : Rounding} {x y : Ext} {e : ℚ} (hx : x.isInf = false) (hy : y.isInf = false)
    (he : e ≠ 0) (h : signOf x.sign * x.mag.val + signOf y.sign * y.mag.val = e) : addSpecial rc x y = none := by
  have hz : (x.isZero && y.isZero) = false := by
    rw [← Bool.not_eq_true, Bool.and_eq_true]
    rintro ⟨h1, h2⟩
    rw [Mag.val_eq_zero.mpr (Ext.mag_n_of_zero h1), Mag.val_eq_zero.mpr (Ext.mag_n_of_zero h2)] at h
    exact he (by rw [← h]; ring)
  simp only [addSpecial, hx, hy, hz, Bool.false_eq_true, if_false, (exactlyOf_add he h).nonzero]

section Ordinary

variable {op : ArithOp} {x y : Ext} (hx : x.ordinary = true) (hy : y.ordinary = true) (he : op.value x.val y.val ≠ 0)
include hx hy he

omit hx hy in
/-- The infinitely precise result (R230 (e), step 8). -/
theorem exactlyOf_arithExact : ExactlyOf (op.value x.val y.val) (arithExact op.core x (op.operand y)) := by
  cases op with
  | add => exact exactlyOf_add he (by rw [← Ext.val_eq, ← Ext.val_eq]; rfl)
  | sub => exact exactlyOf_add he (negExt_sum x y)
  | mul =>
    refine exactlyOf_val he rfl ?_
    show signOf (x.sign != y.sign) * (x.mag.mul y.mag).val = x.val * y.val
    rw [signOf_bne, mag_mul_val, Ext.val_eq, Ext.val_eq]
    ring
  | div =>
    show ExactlyOf (x.val / y.val) (x.sign != y.sign, x.mag.div y.mag)
    obtain ⟨hx0, hy0⟩ : x.val ≠ 0 ∧ y.val ≠ 0 := div_ne_zero_iff.mp he
    obtain ⟨m, hm, hd, hbits⟩ := mag_div_spec (mag_n_ne_zero hx0) (mag_n_ne_zero hy0) (mag_n_lt y)
    rw [hm]
    have hq : signOf (x.sign != y.sign) * (x.mag.val / y.mag.val) = x.val / y.val := by
      rw [signOf_bne, Ext.val_eq x, Ext.val_eq y, mul_div_mul_comm, signOf_div]
    have hpos : 0 ≤ x.mag.val / y.mag.val := div_nonneg x.mag.val_nonneg y.mag.val_nonneg
    exact exactlyOf_of_bits hpos hq hd hbits

/-- The result is not one of the special ones (step 7). -/
theorem arithSpecial_none (rc : Rounding) : arithSpecial op.core rc x (op.operand y) = none := by
  obtain ⟨hxi, -, -⟩ := ordinary_class hx
  obtain ⟨hyi, -, -⟩ := ordinary_class hy
  cases op with
  | add => exact addSpecial_none hxi hyi he (by rw [← Ext.val_eq, ← Ext.val_eq]; rfl)
  | sub => exact addSpecial_none hxi hyi he (negExt_sum x y)
  | mul =>
    obtain ⟨hx0, hy0⟩ : x.val ≠ 0 ∧ y.val ≠ 0 := mul_ne_zero_iff.mp he
    simp [ArithOp.core, ArithOp.operand, arithSpecial, mulSpecial, hxi, hyi, isZero_eq_false hx0, isZero_eq_false hy0]
  | div =>
    obtain ⟨hx0, hy0⟩ : x.val ≠ 0 ∧ y.val ≠ 0 := div_ne_zero_iff.mp he
    simp [ArithOp.core, ArithOp.operand, arithSpecial, divSpecial, hxi, hyi, isZero_eq_false hx0]

/-- The operation is not invalid and not a zero divide (step 5). -/
theorem arith_valid : arithInvalid op.core x (op.operand y) = false ∧ zeroDivide op.core x (op.operand y) = false := by
  obtain ⟨hxi, -, -⟩ := ordinary_class hx
  obtain ⟨hyi, -, -⟩ := ordinary_class hy
  cases op with
  | add => simp [ArithOp.core, arithInvalid, zeroDivide, hxi]
  | sub => simp [ArithOp.core, arithInvalid, zeroDivide, hxi]
  | mul => simp [ArithOp.core, ArithOp.operand, arithInvalid, zeroDivide, hxi, hyi]
  | div =>
    obtain ⟨hx0, hy0⟩ : x.val ≠ 0 ∧ y.val ≠ 0 := div_ne_zero_iff.mp he
    simp [ArithOp.core, ArithOp.operand, arithInvalid, zeroDivide, hxi, isZero_eq_false hx0, isZero_eq_false hy0]

/-- The operation on ordinary operands with a result that is not zero is delivered as it is. -/
theorem arith_ordinary {k : Fin 8} {p : ℕ} {fin : State → State} {s : State} :
    arith op k x y false p fin s = fin (s.deliverSt k (arithExact op.core x (op.operand y)).1
      (arithExact op.core x (op.operand y)).2 p) := by
  obtain ⟨-, hxd, hxn⟩ := ordinary_class hx
  obtain ⟨-, hyd, hyn⟩ := ordinary_class hy
  obtain ⟨h1, h2⟩ := arith_valid hx hy he
  have hden : (op.operand y).isDenorm = false := by cases op <;> exact hyd
  rw [arith_numbers hxn hyn]
  simp only [arithNumbers, h1, h2, Bool.false_eq_true, if_false]
  rw [denormThen_of_eq_false (by rw [hxd, hden]; rfl), arithSpecial_none hx hy he]

end Ordinary

theorem inRange.cast {e : ℚ} (h : inRange e) :
    (2 : ℝ) ^ (-16382 : ℤ) ≤ ((|e| : ℚ) : ℝ) ∧ ((|e| : ℚ) : ℝ) < 2 ^ (16383 : ℤ) := by
  have hlo := (Rat.cast_le (K := ℝ)).mpr h.1
  have hhi := (Rat.cast_lt (K := ℝ)).mpr h.2
  rw [Rat.cast_zpow, Rat.cast_ofNat] at hlo hhi
  exact ⟨hlo, hhi⟩

/-- An instruction whose result is exactly known and in range ends with that result rounded once. -/
theorem State.Begun.exactly_put {s u t : State} {i : Instr} {fin : State → State} {n : Nat} (hb : s.Begun u i)
    (h : u.Quiet t) (hf : Pops fin n) {k : Fin 8} {b : Bool × Mag} {p : ℕ} {e : ℚ} (hp : 2 ≤ p) (hp64 : p ≤ 64)
    (he : ExactlyOf e b) (hr : inRange e) :
    let w := (fin (t.deliverSt k b.1 b.2 p)).advance i
    rounded s w k p (e : ℝ) ∧ s.KeepsRegs w [k] ∧ s.Popped w (some k) n := by
  obtain ⟨hlo, hhi⟩ := hr.cast
  exact hb.rounded_put h hf hp hp64 he.nonzero he.denotes (fun hm => (he.bits hm).trans' (by omega)) hlo hhi
    (by rw [← Rat.cast_mul, ← he.signed])

theorem pcBits_bounds {cw : Word16} {p : ℕ} (h : pcBits cw = some p) : 2 ≤ p ∧ p ≤ 64 := by
  unfold pcBits at h
  split at h <;> cases h <;> omega

/-- Settles O30: the eighteen forms are `arithRegs`, whose operation on ordinary operands is delivered as it is. -/
theorem registerArithmeticRoundsTheExactResult : Obligations.RegisterArithmeticRoundsTheExactResult := by
  intro i s d e pops p op hi hr hpc hd he hxd hxe hrange
  have ha := registerArith_of s hi
  obtain ⟨u, hb, hexec, hmem, hcompleted⟩ := ha.runs hr hpc
  generalize arithForm i = a at *
  rw [ha.value] at hrange ⊢
  obtain ⟨hx, hy⟩ := (a.order.pair_and (fun x => x.ordinary = true) _ _).mpr ⟨hxd, hxe⟩
  have hvalue : a.value (s.st d).val (s.st e).val
      = a.op.value (a.order.pair (s.st d) (s.st e)).1.val (a.order.pair (s.st d) (s.st e)).2.val := by
    rw [ArithForm.value]
    cases a.order <;> rfl
  rw [hvalue] at hrange ⊢
  have hbody := arithRegs_nonempty (op := a.op) (o := a.order) (p := p) (fin := a.fin) (s := u)
    ((hb.stEmpty d).trans hd) ((hb.stEmpty e).trans he)
  rw [hb.st, hb.st, hb.phys, arith_ordinary hx hy hrange.ne_zero] at hbody
  rw [hbody] at hexec hmem hcompleted
  obtain ⟨hp, hp64⟩ := pcBits_bounds hpc
  obtain ⟨hrounded, hregs, hpopped⟩ := hb.exactly_put (drawC320_quiet u) ha.pops (k := s.phys d) hp hp64
    (exactlyOf_arithExact hrange.ne_zero) hrange
  exact ⟨_, hexec, hrounded, hregs, hpopped, hmem, hcompleted⟩

end Sys2Proof.Machine

/-! # The formats in memory (O19, O21, O22, O23, O31)

What the conversions to extended real make of a single, a double, an integer and a packed decimal (R123, R124). -/

namespace Sys2Proof.Machine

/-! ## Single and double (R57, R58, R123) -/

/-- The sizes of the single and of the double format. -/
structure FormatSizes (f : Fmt) : Prop where
  frac : 2 ≤ f.frac ∧ f.frac ≤ 62
  exp : 2 ≤ f.expBits ∧ f.expBits ≤ 11
  emax : f.emax = 2 ^ (f.expBits - 1) - 1
  emin : f.emin = 1 - f.emax

theorem formatSizes_single : FormatSizes .single := ⟨by decide, by decide, by decide, by decide⟩
theorem formatSizes_double : FormatSizes .double := ⟨by decide, by decide, by decide, by decide⟩

section Real

variable {f : Fmt} {w : Nat}

theorem FormatSizes.emax_bounds (h : FormatSizes f) : 1 ≤ f.emax ∧ f.emax ≤ 1023 := by
  obtain ⟨h1, h2⟩ := h.exp
  have hlo : (2 : ℤ) ^ 1 ≤ 2 ^ (f.expBits - 1) := pow_le_pow_right₀ (by norm_num) (by omega)
  have hhi : (2 : ℤ) ^ (f.expBits - 1) ≤ 2 ^ 10 := pow_le_pow_right₀ (by norm_num) (by omega)
  rw [h.emax]
  omega

/-- The exponents of a finite number's fields. -/
theorem FormatSizes.exp_le (h : FormatSizes f) (hfin : formatFinite f.expBits f.frac w = true) :
    expField f.expBits f.frac w ≤ 2046 := by
  have hne : expField f.expBits f.frac w ≠ 2 ^ f.expBits - 1 := by simpa [formatFinite] using hfin
  have hlt : expField f.expBits f.frac w < 2 ^ f.expBits := Nat.mod_lt _ (by positivity)
  have hhi : 2 ^ f.expBits ≤ 2 ^ 11 := Nat.pow_le_pow_right two_pos h.exp.2
  omega

theorem log2_le_63 {n : ℕ} (h : n < 2 ^ 64) : n.log2 ≤ 63 := by
  by_cases h0 : n = 0
  · rw [h0]; decide
  · exact Nat.lt_succ_iff.mp ((Nat.log2_lt h0).mpr h)

theorem ordinary_of_normal {x : Ext} (h : classify x = .normal) : x.ordinary = true := by simp [Ext.ordinary, h]
theorem ordinary_zeroExt (s : Bool) : (zeroExt s).ordinary = true := by simp [Ext.ordinary, classify_zeroExt]

/-- A number in the format, a denormal too, becomes a zero or a normal number of the same value and sign (R123). -/
theorem toExt_finite (h : FormatSizes f) (hfin : formatFinite f.expBits f.frac w = true) :
    (f.toExt w).ordinary = true ∧ (f.toExt w).val = formatVal f.expBits f.frac w
      ∧ (f.toExt w).sign = signField f.expBits f.frac w := by
  obtain ⟨hf1, hf2⟩ := h.frac
  obtain ⟨he1, he2⟩ := h.emax_bounds
  have hexp := h.exp_le hfin
  have hemin := h.emin
  have hbias : (2 : ℤ) ^ (f.expBits - 1) - 1 = f.emax := h.emax.symm
  have hne : expField f.expBits f.frac w ≠ 2 ^ f.expBits - 1 := by simpa [formatFinite] using hfin
  have hmlt : fracField f.frac w < 2 ^ f.frac := Nat.mod_lt _ (by positivity)
  have hp62 : 2 ^ f.frac ≤ 2 ^ 62 := Nat.pow_le_pow_right two_pos hf2
  have htoExt : f.toExt w =
      if expField f.expBits f.frac w = 0 then
        if fracField f.frac w = 0 then zeroExt (signField f.expBits f.frac w)
        else exactExt (signField f.expBits f.frac w) (fracField f.frac w) (f.emin - f.frac)
      else if expField f.expBits f.frac w = 2 ^ f.expBits - 1 then
        { sign := signField f.expBits f.frac w, exp := expMax,
          sig := BitVec.ofNat 64 ((2 ^ f.frac + fracField f.frac w) <<< (63 - f.frac)) }
      else exactExt (signField f.expBits f.frac w) (2 ^ f.frac + fracField f.frac w)
        ((expField f.expBits f.frac w : ℤ) - f.emax - f.frac) := rfl
  rw [htoExt, if_neg hne]
  unfold formatVal
  rw [hbias]
  generalize expField f.expBits f.frac w = e at *
  generalize fracField f.frac w = m at *
  generalize signField f.expBits f.frac w = s at *
  simp only
  split
  next h0 =>
    split
    next hm =>
      rw [hm]
      exact ⟨ordinary_zeroExt s, by rw [val_zeroExt]; simp, rfl⟩
    next hm =>
      have hlog := log2_le_63 (n := m) (by omega)
      obtain ⟨hc, hv, hs⟩ := exactExt_spec (s := s) (k := f.emin - f.frac) hm (by omega) (by omega) (by omega)
      refine ⟨ordinary_of_normal hc, ?_, hs⟩
      rw [hv, hemin, zpow_sub₀ two_ne_zero, zpow_natCast]
      ring
  next h0 =>
    have hlog := log2_le_63 (n := 2 ^ f.frac + m) (by omega)
    obtain ⟨hc, hv, hs⟩ := exactExt_spec (s := s) (n := 2 ^ f.frac + m) (k := (e : ℤ) - f.emax - f.frac) (by positivity)
      (by omega) (by omega) (by omega)
    refine ⟨ordinary_of_normal hc, ?_, hs⟩
    rw [hv, zpow_sub₀ two_ne_zero, zpow_natCast]
    push_cast
    field_simp

end Real

/-! ## Integers and decimals (R59, R60, R124) -/

theorem extOfInt_spec {i : ℤ} (h : i.natAbs ≤ 2 ^ 64) :
    (extOfInt i).ordinary = true ∧ (extOfInt i).val = i ∧ ((extOfInt i).sign = true ↔ i < 0) := by
  unfold extOfInt
  split
  next h0 =>
    subst h0
    exact ⟨ordinary_zeroExt false, val_zeroExt false, by simp [zeroExt]⟩
  next h0 =>
    have hlog : i.natAbs.log2 ≤ 64 :=
      (Nat.pow_le_pow_iff_right (by norm_num)).mp ((Nat.log2_self_le (by omega)).trans h)
    obtain ⟨hc, hv, hs⟩ := exactExt_spec (s := decide (i < 0)) (n := i.natAbs) (k := 0) (by omega) h (by omega) (by omega)
    refine ⟨ordinary_of_normal hc, ?_, by rw [hs, decide_eq_true_iff]⟩
    rw [hv, zpow_zero, mul_one, signOf]
    rcases lt_or_ge i 0 with hneg | hpos
    · have : ((i.natAbs : ℕ) : ℚ) = -i := by
        rw [← Int.cast_natCast, Int.ofNat_natAbs_of_nonpos hneg.le, Int.cast_neg]
      simp [hneg, this]
    · have : ((i.natAbs : ℕ) : ℚ) = i := by
        rw [← Int.cast_natCast, Int.natAbs_of_nonneg hpos]
      simp [not_lt.mpr hpos, this]

theorem toInt_natAbs_le {n : ℕ} (h : n ≤ 64) (b : BitVec n) : b.toInt.natAbs ≤ 2 ^ 64 := by
  have hlt := b.isLt
  have : 2 ^ n ≤ 2 ^ 64 := Nat.pow_le_pow_right two_pos h
  rw [BitVec.toInt_eq_toNat_cond]
  split <;> omega

theorem readPlace_length (s : State) (p : Place) (n : ℕ) : (s.readPlace p n).length = n := by
  simp [State.readPlace, State.placeAddrs, State.addrs]

/-- The integer of a memory operand. -/
theorem intOfBytes_eq {bs : List Byte} {n : ℕ} (h : bs.length = n) :
    intOfBytes bs = (BitVec.ofNat (8 * n) (leNat bs)).toInt := by
  subst h
  rfl

/-- The digits of a number, one after the other. -/
theorem digitsVal_bcdDigits (n w : ℕ) :
    digitsVal (bcdDigits n w) = ((List.range n).map fun k => w / 16 ^ k % 16 * 10 ^ k).sum := by
  induction n generalizing w with
  | zero => rfl
  | succ n ih =>
    rw [bcdDigits, digitsVal, ih, List.range_succ_eq_map, List.map_cons, List.map_map, List.sum_cons,
      ← List.sum_map_mul_left]
    congr 1
    · simp
    · refine congrArg List.sum (List.map_congr_left fun k _ => ?_)
      simp only [Function.comp_apply, Nat.pow_succ', Nat.div_div_eq_div_mul]
      ring

theorem bcdDigits_all {n w : ℕ} (h : ∀ k, k < n → w / 16 ^ k % 16 ≤ 9) : (bcdDigits n w).all (· < 10) = true := by
  induction n generalizing w with
  | zero => rfl
  | succ n ih =>
    rw [bcdDigits, List.all_cons, Bool.and_eq_true, decide_eq_true_iff]
    refine ⟨by simpa using Nat.lt_succ_of_le (h 0 n.succ_pos), ih fun k hk => ?_⟩
    have := h (k + 1) (by omega)
    rwa [Nat.pow_succ', ← Nat.div_div_eq_div_mul] at this

theorem digitsVal_lt {ds : List ℕ} (h : ds.all (· < 10) = true) : digitsVal ds < 10 ^ ds.length := by
  induction ds with
  | nil => decide
  | cons d ds ih =>
    rw [List.all_cons, Bool.and_eq_true, decide_eq_true_iff] at h
    have := ih h.2
    rw [digitsVal, List.length_cons, Nat.pow_succ]
    omega

theorem length_bcdDigits (n w : ℕ) : (bcdDigits n w).length = n := by
  induction n generalizing w with
  | zero => rfl
  | succ n ih => rw [bcdDigits, List.length_cons, ih]

/-- A packed decimal of valid digits (R60, R124). -/
theorem extOfBcd_spec {w : ℕ} (h : bcdValid w = true) :
    (extOfBcd w).ordinary = true ∧ (extOfBcd w).sign = w.testBit 79
      ∧ (extOfBcd w).val = signOf (w.testBit 79) * decimalVal w := by
  have hsign : (w / 2 ^ 79 % 2 == 1) = w.testBit 79 := by
    rw [Nat.testBit_eq_decide_div_mod_eq]
    rfl
  have hval : digitsVal (bcdDigits 18 w) = decimalVal w := digitsVal_bcdDigits 18 w
  have hlt : decimalVal w < 10 ^ 18 := by
    have := digitsVal_lt h
    rwa [length_bcdDigits, hval] at this
  have hext : extOfBcd w = if decimalVal w = 0 then zeroExt (w.testBit 79) else exactExt (w.testBit 79) (decimalVal w) 0 := by
    rw [← hval, ← hsign]
    rfl
  rw [hext]
  split
  next h0 =>
    rw [h0]
    exact ⟨ordinary_zeroExt _, rfl, by rw [val_zeroExt]; simp⟩
  next h0 =>
    have hlog := log2_le_63 (n := decimalVal w) (by omega)
    obtain ⟨hc, hv, hs⟩ := exactExt_spec (s := w.testBit 79) (k := 0) h0 (by omega) (by omega) (by omega)
    exact ⟨ordinary_of_normal hc, hs, by rw [hv, zpow_zero, mul_one]⟩

/-! ## Loads of numbers -/

/-- The body of an instruction that pushes a value and raises nothing. -/
theorem RunsTo.pushes {i : Instr} {s : State} {r : Result} {x : Ext} (h : RunsTo r i s (loadPlain x))
    (hfull : s.full7 = false) : ∃ t, r = .next t ∧ s.Pushed t i x ∧ s.Raised t [] := by
  obtain ⟨u, hb, hexec, hmem, hcompleted⟩ := h.framed (framed_loadPlain x)
  rw [loadPlain_room (hb.full7.trans hfull)] at hexec hmem hcompleted
  exact ⟨_, hexec, hb.pushed_quiet hmem hcompleted⟩

/-- FLD of a finite single or double (R201). -/
theorem RunsTo.pushes_real {i : Instr} {s : State} {r : Result} {f : Fmt} {w : ℕ} (h : RunsTo r i s (loadReal f w))
    (hf : FormatSizes f) (hfull : s.full7 = false) (hfin : formatFinite f.expBits f.frac w = true)
    (hm : masked s.cw .de = true) :
    ∃ t, r = .next t ∧ s.Pushed t i (f.toExt w)
      ∧ s.Raised t (if formatDenormal f.expBits f.frac w then [.de] else []) := by
  obtain ⟨u, hb, hexec, hmem, hcompleted⟩ := h.framed (framed_loadReal f w)
  have hsnan : (f.toExt w).isSnan = false := isSnan_of_isNumber (ordinary_class (toExt_finite hf hfin).1).2.2
  have hfull : u.drawC320ClearC1.full7 = false := hb.full7.trans hfull
  have hbody : loadReal f w u = u.drawC320ClearC1.denormThen (formatDenormal f.expBits f.frac w) fun s => s.push (f.toExt w) := by
    unfold loadReal
    simp only [hfull, hsnan, Bool.false_eq_true, if_false]
    rfl
  rw [hbody] at hexec hmem hcompleted
  cases hden : formatDenormal f.expBits f.frac w with
  | false =>
    rw [denormThen_of_eq_false hden] at hexec hmem hcompleted
    exact ⟨_, hexec, hb.pushed_quiet hmem hcompleted⟩
  | true =>
    have hgo : u.drawC320ClearC1.denormThen (formatDenormal f.expBits f.frac w) (fun s => s.push (f.toExt w))
        = (u.drawC320ClearC1.raise .de).push (f.toExt w) := by
      rw [hden]
      exact if_pos (hb.cw.symm ▸ hm)
    rw [hgo] at hexec hmem hcompleted
    have hq := drawC320ClearC1_quiet u
    exact ⟨_, hexec, hb.pushed (hq.toSteady.raise .de) rfl hmem hcompleted,
      hb.raised (raised_of_errors (hq.raised (raise_raised _ .de)) rfl)⟩

/-- Settles O19: `toExt` keeps the value, and `loadReal` pushes it. -/
theorem fldRealPushesTheValue : Obligations.FldRealPushesTheValue := by
  intro p m s i n k fr hi w hr hreach hfull hfin hm
  have finish : ∀ {f : Fmt}, FormatSizes f → f.expBits = k → f.frac = fr → RunsTo (exec i s) i s (loadReal f w) →
      ∃ t v, exec i s = .next t ∧ s.Pushed t i v ∧ v.ordinary = true ∧ v.val = formatVal k fr w
        ∧ v.sign = signField k fr w ∧ s.Raised t (if formatDenormal k fr w then [.de] else []) := by
    rintro f hf rfl rfl hruns
    obtain ⟨t, hexec, hpushed, hraised⟩ := hruns.pushes_real hf hfull hfin hm
    obtain ⟨ho, hv, hs⟩ := toExt_finite hf hfin
    exact ⟨t, _, hexec, hpushed, ho, hv, hs, hraised⟩
  rcases hi with ⟨rfl, rfl, rfl, rfl⟩ | ⟨rfl, rfl, rfl, rfl⟩
  · exact finish formatSizes_single rfl rfl (runs_numLoad (i := .fldM32 p m)
      (body := fun bs => loadReal .single (leNat bs)) rfl rfl hr hreach)
  · exact finish formatSizes_double rfl rfl (runs_numLoad (i := .fldM64 p m)
      (body := fun bs => loadReal .double (leNat bs)) rfl rfl hr hreach)

/-- Settles O21: `extOfInt` is exact. -/
theorem fildPushesTheInteger : Obligations.FildPushesTheInteger := by
  intro p m s i n hi hr hreach hfull z
  have hz : intOfBytes (s.readPlace (s.place p m) n) = z := intOfBytes_eq (readPlace_length _ _ _)
  have hruns : RunsTo (exec i s) i s (loadPlain (extOfInt z)) := by
    rw [← hz]
    generalize hexec : exec i s = r
    rcases hi with ⟨rfl, rfl⟩ | ⟨rfl, rfl⟩ | ⟨rfl, rfl⟩
    all_goals exact runs_numLoad (body := fun bs => loadPlain (extOfInt (intOfBytes bs))) hexec rfl hr hreach
  have hn : 8 * n ≤ 64 := by rcases hi with ⟨-, rfl⟩ | ⟨-, rfl⟩ | ⟨-, rfl⟩ <;> norm_num
  obtain ⟨ho, hv, hs⟩ := extOfInt_spec (toInt_natAbs_le hn (BitVec.ofNat (8 * n) (leNat (s.readPlace (s.place p m) n))))
  obtain ⟨t, hexec, hpushed, hraised⟩ := hruns.pushes hfull
  exact ⟨t, _, hexec, hpushed, hraised, ho, hv, hs⟩

/-- Settles O22: valid digits are converted exactly; with an invalid one the value pushed is drawn. -/
theorem fbldPushesTheDecimal : Obligations.FbldPushesTheDecimal := by
  intro p m s hr hreach hfull w
  obtain ⟨u, hb, hexec, hmem, hcompleted⟩ := (runs_numLoad (i := .fbld p m) (m := m) (n := 10)
    (body := fun bs => loadBcd (leNat bs)) rfl rfl hr hreach).framed (framed_loadBcd _)
  have hfull : u.drawC320ClearC1.full7 = false := hb.full7.trans hfull
  have hbody : loadBcd w u = if bcdValid w then u.drawC320ClearC1.push (extOfBcd w)
      else u.drawC320ClearC1.drew.push (extOfNat (u.drawC320ClearC1.drawn 80).toNat) := if_neg (Bool.eq_false_iff.mp hfull)
  rw [show leNat (s.readPlace (s.place (Instr.fbld p m).prefixes m) 10) = w from rfl, hbody] at hexec hmem hcompleted
  cases hvalid : bcdValid w with
  | true =>
    rw [hvalid] at hexec hmem hcompleted
    obtain ⟨hpushed, hraised⟩ := hb.pushed_quiet hmem hcompleted
    exact ⟨_, _, hexec, hpushed, hraised, fun _ => extOfBcd_spec hvalid⟩
  | false =>
    rw [hvalid] at hexec hmem hcompleted
    exact ⟨_, _, hexec, hb.pushed ⟨rfl, rfl, rfl⟩ rfl hmem hcompleted, hb.raised (raised_nil u),
      fun hdigits => by rw [show bcdValid w = true from bcdDigits_all hdigits] at hvalid; cases hvalid⟩

/-! ## Constants (R321) -/

/-- Whether a constant is one unit larger than its chopped significand (the table of R321 (d)). -/
def constUp (near : Option Bool) (rc : Rounding) : Bool :=
  match near, rc with
  | none, _ => false
  | some n, .nearest => n
  | some _, .up => true
  | some _, .down => false
  | some _, .chop => false

/-- The pattern that R321's table gives. -/
def constPattern (e sig : Nat) (near : Option Bool) (rc : Rounding) : Ext :=
  ⟨false, BitVec.ofNat 15 e, BitVec.ofNat 64 (sig + (constUp near rc).toNat)⟩

/-- The rounded constants, by rounding mode. -/
theorem constExt_table (rc : Rounding) :
    constExt constPi rc = constPattern 0x4000 0xC90FDAA22168C234 (some true) rc
      ∧ constExt constL2t rc = constPattern 0x4000 0xD49A784BCD1B8AFE (some false) rc
      ∧ constExt constL2e rc = constPattern 0x3FFF 0xB8AA3B295C17F0BB (some true) rc
      ∧ constExt constLg2 rc = constPattern 0x3FFD 0x9A209A84FBCFF798 (some true) rc
      ∧ constExt constLn2 rc = constPattern 0x3FFE 0xB17217F7D1CF79AB (some true) rc := by
  cases rc <;> decide

theorem RunsTo.const {i : Instr} {s : State} {r : Result} {c : Mag} (h : RunsTo r i s (loadConst c)) :
    RunsTo r i s (loadPlain (constExt c s.rc)) := by
  obtain ⟨u, hb, h⟩ := h
  exact ⟨u, hb, by rw [h, loadConst, hb.rc]⟩

/-- A constant instruction pushes the pattern of the table. -/
theorem constant_runs {i : Instr} {s : State} {e sig : Nat} {near : Option Bool} {r : Result} (hexec : exec i s = r)
    (hi : constantTable i = some (e, sig, near)) (hr : s.Ready true) :
    RunsTo r i s (loadPlain (constPattern e sig near s.rc)) := by
  obtain ⟨hpi, hl2t, hl2e, hlg2, hln2⟩ := constExt_table s.rc
  unfold exec at hexec
  cases i with
  | fldz p => cases hi; exact runs_numReg hexec rfl hr
  | fld1 p => cases hi; exact runs_numReg hexec rfl hr
  | fldpi p => cases hi; exact hpi ▸ (runs_numReg hexec rfl hr).const
  | fldl2t p => cases hi; exact hl2t ▸ (runs_numReg hexec rfl hr).const
  | fldl2e p => cases hi; exact hl2e ▸ (runs_numReg hexec rfl hr).const
  | fldlg2 p => cases hi; exact hlg2 ▸ (runs_numReg hexec rfl hr).const
  | fldln2 p => cases hi; exact hln2 ▸ (runs_numReg hexec rfl hr).const
  | _ => cases hi

/-- Settles O23: the model's constants, rounded, are the table's patterns. -/
theorem constantsPushTheTablesPatterns : Obligations.ConstantsPushTheTablesPatterns := by
  intro i s e sig near hi hr hfull up
  have hup : up = constUp near s.rc := rfl
  rw [hup]
  exact (constant_runs rfl hi hr).pushes hfull

end Sys2Proof.Machine

/-! # The basic operations with a memory operand (O31) -/

namespace Sys2Proof.Machine

/-! ## Memory operands of arithmetic and comparison (R230 (c), R280) -/

/-- The operand as it is computed with. -/
def sourceExt (f : Source) (bs : List Byte) : Ext :=
  match f with
  | .single => Fmt.single.toExt (leNat bs)
  | .double => Fmt.double.toExt (leNat bs)
  | .int16 => extOfInt (intOfBytes bs)
  | .int32 => extOfInt (intOfBytes bs)

/-- Whether it is a denormal of its format. -/
def sourceDenormal (f : Source) (bs : List Byte) : Bool :=
  match f with
  | .single => Fmt.single.isDenorm (leNat bs)
  | .double => Fmt.double.isDenorm (leNat bs)
  | .int16 => false
  | .int32 => false

theorem sourceExt_ordinary {f : Source} {bs : List Byte} (hlen : bs.length = f.size) (h : f.ordinary (leNat bs) = true) :
    (sourceExt f bs).ordinary = true ∧ (sourceExt f bs).val = f.val (leNat bs) ∧ sourceDenormal f bs = false := by
  have real : ∀ {g : Fmt}, FormatSizes g → formatFinite g.expBits g.frac (leNat bs) = true
      ∧ formatDenormal g.expBits g.frac (leNat bs) = false →
      (g.toExt (leNat bs)).ordinary = true ∧ (g.toExt (leNat bs)).val = formatVal g.expBits g.frac (leNat bs)
        ∧ g.isDenorm (leNat bs) = false := fun hg hw => by
    obtain ⟨ho, hv, -⟩ := toExt_finite hg hw.1
    exact ⟨ho, hv, hw.2⟩
  cases f with
  | single =>
    have h : formatFinite 8 23 (leNat bs) = true ∧ formatDenormal 8 23 (leNat bs) = false := by
      simpa [Source.ordinary] using h
    exact real formatSizes_single h
  | double =>
    have h : formatFinite 11 52 (leNat bs) = true ∧ formatDenormal 11 52 (leNat bs) = false := by
      simpa [Source.ordinary] using h
    exact real formatSizes_double h
  | int16 =>
    obtain ⟨ho, hv, -⟩ := extOfInt_spec (toInt_natAbs_le (by norm_num) (BitVec.ofNat (8 * 2) (leNat bs)))
    rw [← intOfBytes_eq (n := 2) hlen] at ho hv
    exact ⟨ho, hv.trans (by rw [intOfBytes_eq (n := 2) hlen]; rfl), rfl⟩
  | int32 =>
    obtain ⟨ho, hv, -⟩ := extOfInt_spec (toInt_natAbs_le (by norm_num) (BitVec.ofNat (8 * 4) (leNat bs)))
    rw [← intOfBytes_eq (n := 4) hlen] at ho hv
    exact ⟨ho, hv.trans (by rw [intOfBytes_eq (n := 4) hlen]; rfl), rfl⟩

/-! ## The twenty-four forms -/

section

variable {op : ArithOp} {o : Order} {y : Ext} {memden : Bool} {p : Nat}

theorem framed_arithMem : Framed (arithMem op o y memden p) :=
  framed_of_leads fun _ => arithMem_leads (List.mem_finRange _)

theorem arithMem_nonempty {u : State} (h : u.stEmpty 0 = false) :
    arithMem op o y memden p u =
      arith op (u.phys 0) (o.pair (u.st 0) y).1 (o.pair (u.st 0) y).2 memden p id u.drawC320 := by
  rw [← arithOrdered_eq]
  exact if_neg (Bool.eq_false_iff.mp h)

end

/-- Each form is `arithMem` on its converted operand. -/
theorem memoryArith_runs {i : Instr} {s : State} {m : MemOp} {f : Source} {op : ℚ → ℚ → ℚ} {p : Nat} {r : Result}
    (hexec : exec i s = r) (hi : memoryArithmetic i = some (m, f, op)) (hr : s.Ready true)
    (hreach : s.Reachable i.prefixes m false f.size) (hpc : pcBits s.cw = some p) :
    let bs := s.readPlace (s.place i.prefixes m) f.size
    RunsTo r i s (arithMem (arithForm i).op (arithForm i).order (sourceExt f bs) (sourceDenormal f bs) p)
      ∧ op = (arithForm i).value := by
  intro bs
  unfold exec at hexec
  cases i with
  | faddM32 | fmulM32 | fsubM32 | fsubrM32 | fdivM32 | fdivrM32 | faddM64 | fmulM64 | fsubM64 | fsubrM64 | fdivM64
  | fdivrM64 | fiaddI32 | fimulI32 | fisubI32 | fisubrI32 | fidivI32 | fidivrI32 | fiaddI16 | fimulI16 | fisubI16
  | fisubrI16 | fidivI16 | fidivrI16 =>
    cases hi
    have h := runs_numLoadP hexec rfl hr hreach hpc
    exact ⟨h, rfl⟩
  | _ => cases hi

/-- Settles O31: the operand is converted exactly, and the operation is the one of the register forms. -/
theorem memoryArithmeticRoundsTheExactResult : Obligations.MemoryArithmeticRoundsTheExactResult := by
  intro i s m f p op hi hr hreach hpc he hx w hw hrange
  obtain ⟨hruns, hop⟩ := memoryArith_runs rfl hi hr hreach hpc
  obtain ⟨hy, hv, hden⟩ := sourceExt_ordinary (readPlace_length s (s.place i.prefixes m) f.size) hw
  rw [hden] at hruns
  obtain ⟨u, hb, hexec, hmem, hcompleted⟩ := hruns.framed framed_arithMem
  generalize arithForm i = a at *
  generalize sourceExt f (s.readPlace (s.place i.prefixes m) f.size) = y at *
  obtain ⟨h1, h2⟩ := (a.order.pair_and (fun x => x.ordinary = true) _ _).mpr ⟨hx, hy⟩
  have hvalue : op (s.st 0).val (f.val w) = a.op.value (a.order.pair (s.st 0) y).1.val (a.order.pair (s.st 0) y).2.val := by
    rw [hop, ← hv, ArithForm.value]
    cases a.order <;> rfl
  rw [hvalue] at hrange ⊢
  have hbody := arithMem_nonempty (op := a.op) (o := a.order) (y := y) (memden := false) (p := p) ((hb.stEmpty 0).trans he)
  rw [hb.st, hb.phys, arith_ordinary h1 h2 hrange.ne_zero] at hbody
  rw [hbody] at hexec hmem hcompleted
  obtain ⟨hp, hp64⟩ := pcBits_bounds hpc
  obtain ⟨hrounded, hregs, hpopped⟩ := hb.exactly_put (drawC320_quiet u) pops_id (k := s.phys 0) hp hp64
    (exactlyOf_arithExact hrange.ne_zero) hrange
  exact ⟨_, hexec, hrounded, hregs, hpopped, hmem, hcompleted⟩

end Sys2Proof.Machine

/-! # Rounding to an integer (R131)

There is one integer to which a number rounds, and `roundInt` finds it. -/

namespace Sys2Proof

/-! ## Uniqueness -/

theorem roundsAmong_eq_self {C E : ℝ → Prop} {rc : Rounding} {x y : ℝ} (hC : C x) (h : RoundsAmong C E rc x y) : y = x := by
  obtain ⟨-, h⟩ := h
  cases rc with
  | down => exact le_antisymm h.1 (h.2 x hC le_rfl)
  | up => exact le_antisymm (h.2 x hC le_rfl) h.1
  | chop =>
    have habs : |y| = |x| := le_antisymm h.1 (h.2.2 x hC (mul_self_nonneg x) le_rfl)
    rcases abs_eq_abs.mp habs with hy | hy
    · exact hy
    · have h0 := h.2.1
      rw [hy] at h0 ⊢
      have : x = 0 := by nlinarith
      rw [this, neg_zero]
  | nearest =>
    have := h.1 x hC
    rw [sub_self, abs_zero] at this
    linarith [abs_nonpos_iff.mp this]

/-- Two integers nearest to the same number are at most one apart. -/
theorem nearest_close {x : ℝ} {a b : ℤ} (ha : ∀ n : ℤ, |x - a| ≤ |x - n|) (hb : ∀ n : ℤ, |x - b| ≤ |x - n|) :
    |a - b| ≤ 1 := by
  have half : ∀ {c : ℤ}, (∀ n : ℤ, |x - c| ≤ |x - n|) → |x - c| ≤ 1 / 2 := fun hc =>
    (hc (round x)).trans (abs_sub_round x)
  have h1 := abs_le.mp (half ha)
  have h2 := abs_le.mp (half hb)
  have h3 : ((a - b : ℤ) : ℝ) ≤ 1 := by push_cast; linarith
  have h4 : (-1 : ℝ) ≤ ((a - b : ℤ) : ℝ) := by push_cast; linarith
  exact abs_le.mpr ⟨by exact_mod_cast h4, by exact_mod_cast h3⟩

/-- R131 determines the integer. -/
theorem RoundsToInt.unique {rc : Rounding} {x : ℝ} {a b : ℤ} (ha : RoundsToInt rc x a) (hb : RoundsToInt rc x b) :
    a = b := by
  obtain ⟨-, ha⟩ := ha
  obtain ⟨-, hb⟩ := hb
  cases rc with
  | down => exact_mod_cast le_antisymm (hb.2 a ⟨a, rfl⟩ ha.1) (ha.2 b ⟨b, rfl⟩ hb.1)
  | up => exact_mod_cast le_antisymm (ha.2 b ⟨b, rfl⟩ hb.1) (hb.2 a ⟨a, rfl⟩ ha.1)
  | chop =>
    have habs : |(a : ℝ)| = |(b : ℝ)| :=
      le_antisymm (hb.2.2 a ⟨a, rfl⟩ ha.2.1 ha.1) (ha.2.2 b ⟨b, rfl⟩ hb.2.1 hb.1)
    rcases abs_eq_abs.mp habs with h | h
    · exact_mod_cast h
    · have h0 := ha.2.1
      have h1 := hb.2.1
      rw [h] at h0
      have hx : x * b = 0 := le_antisymm (by linarith) h1
      rcases mul_eq_zero.mp hx with hx | hb0
      · have h2 := ha.1
        have h3 := hb.1
        rw [hx, abs_zero, abs_nonpos_iff] at h2 h3
        exact_mod_cast h2.trans h3.symm
      · rw [hb0, neg_zero] at h
        exact_mod_cast h.trans hb0.symm
  | nearest =>
    have hmin : ∀ {c : ℤ}, (∀ z : ℝ, (∃ n : ℤ, z = n) → |x - c| ≤ |x - z|) → ∀ n : ℤ, |x - c| ≤ |x - n| :=
      fun h n => h n ⟨n, rfl⟩
    by_contra hne
    have hneR : (a : ℝ) ≠ b := fun h => hne (by exact_mod_cast h)
    have heq : |x - a| = |x - b| := le_antisymm (ha.1 b ⟨b, rfl⟩) (hb.1 a ⟨a, rfl⟩)
    obtain ⟨m, hm, ham⟩ := ha.2 ⟨b, ⟨b, rfl⟩, hneR.symm, heq.symm⟩
    obtain ⟨n, hn, hbn⟩ := hb.2 ⟨a, ⟨a, rfl⟩, hneR, heq⟩
    have ham : a = m := by exact_mod_cast ham
    have hbn : b = n := by exact_mod_cast hbn
    have hclose := nearest_close (hmin ha.1) (hmin hb.1)
    obtain ⟨c, hc⟩ := hm
    obtain ⟨d, hd⟩ := hn
    rw [abs_le] at hclose
    omega

/-! ## `roundInt` -/

theorem multiple_zero : Multiple 0 = fun z : ℝ => ∃ n : ℤ, z = n := by
  funext z
  simp [Multiple]

theorem evenMultiple_zero : EvenMultiple 0 = fun z : ℝ => ∃ n : ℤ, Even n ∧ z = n := by
  funext z
  simp [EvenMultiple]

theorem signedInt_cast (neg : Bool) (n : ℕ) : ((signedInt neg n : ℤ) : ℚ) = signOf neg * n := by
  cases neg <;> simp [signedInt, signOf]

theorem roundInt_val (neg : Bool) (rc : Rounding) (m : Mag) :
    (roundInt neg rc m).val neg = signedInt neg (roundInt neg rc m).n := by
  rw [signedInt_cast, Rounded.val, show (roundInt neg rc m).k = 0 from rfl, zpow_zero, mul_one]

/-- R131: `roundInt` of an exact number. -/
theorem roundInt_spec (neg : Bool) (rc : Rounding) {m : Mag} (h : m.more = false) :
    let z := signedInt neg (roundInt neg rc m).n
    RoundsToInt rc ((signOf neg * m.val : ℚ) : ℝ) z ∧ ((roundInt neg rc m).inexact = true ↔ (z : ℚ) ≠ signOf neg * m.val)
      ∧ ((roundInt neg rc m).up = true ↔ |signOf neg * m.val| < |(z : ℚ)|) := by
  obtain ⟨hr, hi, hu⟩ := roundUnit_multiple (neg := neg) (rc := rc) (t := 0) (Mag.denotes_val h)
    fun hc => by rw [h] at hc; cases hc
  rw [multiple_zero, evenMultiple_zero] at hr
  rw [show roundUnit neg rc m 0 = roundInt neg rc m from rfl, roundInt_val] at hr hi hu
  rw [← Rat.cast_mul] at hr hi hu
  refine ⟨?_, ?_, ?_⟩
  · rwa [Rat.cast_intCast] at hr
  · rw [hi, ne_eq, Rat.cast_inj]
  · rw [hu]
    exact_mod_cast Iff.rfl

/-- The same for a finite pattern. -/
theorem roundInt_ext (rc : Rounding) (x : Ext) :
    let z := signedInt x.sign (roundInt x.sign rc x.mag).n
    RoundsToInt rc (x.val : ℝ) z ∧ ((roundInt x.sign rc x.mag).inexact = true ↔ (z : ℚ) ≠ x.val)
      ∧ ((roundInt x.sign rc x.mag).up = true ↔ |x.val| < |(z : ℚ)|) := by
  rw [Ext.val_eq]
  exact roundInt_spec x.sign rc x.mag_more

/-- The integer toward zero is the integer part at the unit 1. -/
theorem splitAt_zero_of_log2_neg {m : Mag} (h : m.more = false) (hlog : m.log2 < 0) : (splitAt m 0).1 = 0 := by
  obtain ⟨h1, -⟩ := splitAt_bounds (t := 0) (Mag.denotes_val h) fun hc => by rw [h] at hc; cases hc
  by_cases h0 : m.n = 0
  · unfold splitAt shiftUp
    split
    · rw [h0]
      simp
    · split
      · rfl
      · rw [h0]
        simp
  · have h2 := ((Mag.denotes_val h).log2_bounds h0).2
    have h3 : (2 : ℝ) ^ (m.log2 + 1) ≤ 1 := zpow_le_one_of_nonpos₀ one_le_two (by omega)
    rw [zpow_zero, mul_one] at h1
    have : ((splitAt m 0).1 : ℝ) < 1 := h1.trans_lt (h2.trans_le h3)
    exact_mod_cast Nat.lt_one_iff.mp (by exact_mod_cast this)

end Sys2Proof

namespace Sys2Proof.Machine

/-- R246: `chopInt` chops toward zero. -/
theorem chopInt_spec (x : Ext) : RoundsToInt .chop (x.val : ℝ) (chopInt x) := by
  have h := (roundInt_ext .chop x).1
  have hn : (roundInt x.sign .chop x.mag).n = (splitAt x.mag 0).1 := by
    simp [roundInt, roundUnit, roundsUp]
  rw [hn] at h
  unfold chopInt
  split
  next hlog => rwa [splitAt_zero_of_log2_neg x.mag_more hlog] at h
  next hlog => exact h

end Sys2Proof.Machine

/-! # One-operand functions and FSCALE (O38, O39, O40, O41) -/

namespace Sys2Proof

/-! ## The integer square root -/

/-- What `isqrtFrom` finds: the bits from `b` down are added while the square stays below. -/
theorem isqrtFrom_spec {n : ℕ} (b r : ℕ) (hlo : r * r ≤ n) (hhi : n < (r + 2 ^ (b + 1)) * (r + 2 ^ (b + 1))) :
    isqrtFrom n b r * isqrtFrom n b r ≤ n ∧ n < (isqrtFrom n b r + 1) * (isqrtFrom n b r + 1) := by
  induction b generalizing r with
  | zero =>
    unfold isqrtFrom
    split
    next h => exact ⟨h, by simpa [add_assoc] using hhi⟩
    next h => exact ⟨hlo, by omega⟩
  | succ b ih =>
    unfold isqrtFrom
    simp only
    split
    next h =>
      refine ih _ h ?_
      rwa [add_assoc, ← two_mul, ← Nat.pow_succ']
    next h => exact ih _ hlo (by omega)

theorem isqrt_spec (n : ℕ) : isqrt n * isqrt n ≤ n ∧ n < (isqrt n + 1) * (isqrt n + 1) := by
  refine isqrtFrom_spec _ 0 (Nat.zero_le n) ?_
  have h := n.lt_log2_self
  rw [zero_add, ← pow_add]
  exact h.trans_le (Nat.pow_le_pow_right two_pos (by omega))

/-- A root of a number of many bits. -/
theorem isqrt_log2 {n : ℕ} (h : 2 ^ 136 ≤ n) : 68 ≤ (isqrt n).log2 := by
  obtain ⟨-, hhi⟩ := isqrt_spec n
  have hbig : 2 ^ 68 ≤ isqrt n := by
    by_contra hlt
    have : isqrt n + 1 ≤ 2 ^ 68 := by omega
    have := Nat.mul_le_mul this this
    omega
  exact (log2_mono_of_le hbig (Nat.lt_two_pow_self (n := isqrt n)).le).1

/-- The real square root of a scaled integer. -/
theorem sqrt_scaled (n : ℕ) (j : ℤ) : Real.sqrt (n * 2 ^ (2 * j)) = Real.sqrt n * 2 ^ j := by
  rw [Real.sqrt_mul (by positivity), two_mul, zpow_add₀ two_ne_zero, Real.sqrt_mul_self (by positivity)]

/-- The square root of an exact magnitude, as a number of many bits. -/
theorem mag_sqrt_spec {a : Mag} (h0 : a.n ≠ 0) :
    ∃ m, a.sqrt = m ∧ m.Denotes (Real.sqrt (a.val : ℝ)) ∧ 68 ≤ m.n.log2 := by
  obtain ⟨j, o, hk, ho⟩ : ∃ (j : ℤ) (o : ℕ), a.k = 2 * j + o ∧ a.k % 2 = o := by
    refine ⟨a.k / 2, (a.k % 2).toNat, ?_, ?_⟩ <;> omega
  have hj : (a.k - o) / 2 = j := by omega
  have hn1 : 1 ≤ a.n <<< o := by
    rw [Nat.shiftLeft_eq]
    exact Nat.mul_pos (Nat.pos_of_ne_zero h0) (by positivity)
  obtain ⟨n, hn⟩ : ∃ n, a.n <<< o <<< 136 = n := ⟨_, rfl⟩
  have hval : (a.val : ℝ) = (n : ℝ) * 2 ^ (2 * (j - 68)) := by
    unfold Mag.val
    rw [← hn, hk, Nat.shiftLeft_eq, Nat.shiftLeft_eq, zpow_add₀ two_ne_zero, mul_sub, zpow_sub₀ two_ne_zero, zpow_natCast]
    push_cast
    field_simp
    norm_num
  have hsqrt : a.sqrt = { n := isqrt n, k := j - 68, more := (isqrt n * isqrt n != n) } := by
    unfold Mag.sqrt
    simp only [ho, Int.toNat_natCast, hn]
    rw [hj]
  have hlarge : 2 ^ 136 ≤ n := by
    rw [← hn, Nat.shiftLeft_eq]
    omega
  clear hn
  refine ⟨_, hsqrt, ?_, isqrt_log2 hlarge⟩
  clear hsqrt hlarge
  obtain ⟨hlo, hhi⟩ := isqrt_spec n
  rw [hval, sqrt_scaled]
  generalize isqrt n = r at *
  have hpos : (0 : ℝ) < 2 ^ (j - 68) := by positivity
  unfold Mag.Denotes
  by_cases hr : r * r = n
  · simp only [hr, bne_self_eq_false, Bool.false_eq_true, if_false]
    rw [← hr, Nat.cast_mul, Real.sqrt_mul_self (by positivity)]
  · simp only [bne_iff_ne, ne_eq, hr, not_false_eq_true, if_true]
    constructor
    · gcongr
      refine Real.lt_sqrt_of_sq_lt ?_
      rw [sq]
      exact_mod_cast lt_of_le_of_ne hlo hr
    · gcongr
      rw [Real.sqrt_lt' (by positivity), sq]
      exact_mod_cast hhi

end Sys2Proof

namespace Sys2Proof.Machine

/-! ## What the bodies do with an operand that is a number (R170) -/

section Operands

variable {s t u : State} {i : Instr} {dup : Ext → State → State} {go : Ext → State → State}

theorem oneOperand_number (he : s.stEmpty 0 = false) (hx : Ext.isNumber (s.st 0) = true) :
    oneOperand dup go s = go (s.st 0) s := by
  have h2 := isSnan_of_isNumber hx
  simp only [Ext.isNumber, Bool.and_eq_true, Bool.not_eq_true'] at hx
  simp only [oneOperand, he, hx.1, hx.2, h2, Bool.false_eq_true, if_false]

theorem twoOperands_numbers {d : Fin 8} {put : State → Fin 8 → Ext → State} {fin : State → State}
    {go : Ext → Ext → State → State} (h0 : s.stEmpty 0 = false) (h1 : s.stEmpty 1 = false)
    (hx : Ext.isNumber (s.st 0) = true) (hy : Ext.isNumber (s.st 1) = true) :
    twoOperands d put fin go s = go (s.st 0) (s.st 1) s := by
  have h2 := isSnan_of_isNumber hx
  have h3 := isSnan_of_isNumber hy
  simp only [Ext.isNumber, Bool.and_eq_true, Bool.not_eq_true'] at hx hy
  simp only [twoOperands, h0, h1, hx.1, hx.2, h2, hy.1, hy.2, h3, Bool.or_self, Bool.false_eq_true, if_false]

theorem popped_some {k : Fin 8} {n : ℕ} (hk : s.isEmpty k = false) (h : s.Popped t none n) : s.Popped t (some k) n := by
  obtain ⟨htop, hemp⟩ := h
  refine ⟨htop, fun j => (hemp j).trans (if_congr Iff.rfl rfl ?_)⟩
  rw [if_neg nofun]
  split
  next hj => cases hj; exact hk
  · rfl

theorem popped_none {k : Fin 8} {n : ℕ} (hk : s.isEmpty k = false) (h : s.Popped t (some k) n) : s.Popped t none n := by
  obtain ⟨htop, hemp⟩ := h
  refine ⟨htop, fun j => (hemp j).trans (if_congr Iff.rfl rfl ?_)⟩
  rw [if_neg (c := none = some j) nofun]
  split
  next hj => cases hj; exact hk.symm
  · rfl

/-- An instruction that ends with nothing written. -/
theorem State.Begun.left_quiet (hb : s.Begun u i) (h : u.Quiet t) :
    let w := (t.setC1 false).advance i
    s.Raised w [] ∧ w.sw.c1 = false ∧ s.KeepsRegs w [] ∧ s.Popped w none 0 ∧ ∀ k, w.reg k = s.reg k := by
  obtain ⟨hregs, -, hpopped⟩ := (h.setC1 false).toSteady.left
  exact ⟨hb.raised ((h.setC1 false).raised (raised_nil _)), rfl, hb.keepsRegs hregs, hb.popped hpopped,
    fun k => (h.toSteady.reg k).trans (hb.reg k)⟩

theorem keepsRegs_mono {ks : List (Fin 8)} (h : s.KeepsRegs t []) : s.KeepsRegs t ks := fun k _ => h k (by simp)

theorem framed_squareRoot (p : ℕ) : Framed (squareRoot p) := framed_of_leads fun _ => squareRoot_leads (List.mem_finRange _) p
theorem framed_roundToInteger : Framed roundToInteger := framed_of_leads fun _ => roundToInteger_leads (List.mem_finRange _)
theorem framed_scaleBy : Framed scaleBy := framed_of_leads fun _ => scaleBy_leads (List.mem_finRange _)
theorem framed_extract : Framed extract :=
  framed_of_leads fun _ => extract_leads (List.mem_finRange _) (List.mem_finRange _)

end Operands

/-- What the class of a normal number excludes. -/
theorem normal_class {x : Ext} (h : classify x = .normal) :
    x.isZero = false ∧ x.isInf = false ∧ x.isDenorm = false ∧ Ext.isNumber x = true := by
  obtain ⟨hi, hd, hn⟩ := ordinary_class (ordinary_of_normal h)
  exact ⟨isZero_eq_false (Ext.val_ne_zero h), hi, hd, hn⟩

/-! ## FSQRT (R245) -/

/-- The root of a normal number is in range. -/
theorem sqrt_bounds {x : Ext} (h : classify x = .normal) :
    2 ^ (-16382 : ℤ) ≤ Real.sqrt (x.mag.val : ℝ) ∧ Real.sqrt (x.mag.val : ℝ) < 2 ^ (16383 : ℤ) := by
  obtain ⟨-, hn, -, hlo, hhi⟩ := normal_mag h
  obtain ⟨h1, h2⟩ := (Mag.denotes_val x.mag_more).log2_bounds hn
  constructor
  · refine Real.le_sqrt_of_sq_le (le_trans ?_ h1)
    rw [← zpow_natCast, ← zpow_mul]
    exact zpow_le_zpow_right₀ one_le_two (by push_cast; omega)
  · rw [Real.sqrt_lt' (by positivity)]
    refine h2.trans_le ?_
    rw [← zpow_natCast, ← zpow_mul]
    exact zpow_le_zpow_right₀ one_le_two (by push_cast; omega)

theorem squareRoot_normal {u : State} {p : ℕ} (he : u.stEmpty 0 = false) (hx : classify (u.st 0) = .normal)
    (hs : (u.st 0).sign = false) :
    squareRoot p u = u.drawC320.deliverSt (u.phys 0) false (u.st 0).mag.sqrt p := by
  obtain ⟨hz, hi, hd, hn⟩ := normal_class hx
  have hgo : squareRoot p u = _ := oneOperand_number (s := u.drawC320) he hn
  rw [hgo]
  have hst : u.drawC320.st 0 = u.st 0 := rfl
  simp only [hst, hz, hi, hs, Bool.false_eq_true, if_false]
  exact denormThen_of_eq_false hd

theorem squareRoot_negative {u : State} {p : ℕ} (he : u.stEmpty 0 = false)
    (hx : (u.st 0).isFiniteNonzero = true ∨ (u.st 0).isInf = true) (hs : (u.st 0).sign = true) :
    squareRoot p u = u.drawC320.respond .ie fun t => t.putExact (u.phys 0) indefinite := by
  have hn : Ext.isNumber (u.st 0) = true := isNumber_of_class (hx.elim (fun h => .inr (.inr h)) .inl)
  have hz : (u.st 0).isZero = false := by
    unfold Ext.isFiniteNonzero Ext.isInf at hx
    unfold Ext.isZero
    revert hx
    cases classify (u.st 0) <;> decide
  have hgo : squareRoot p u = _ := oneOperand_number (s := u.drawC320) he hn
  rw [hgo]
  have hst : u.drawC320.st 0 = u.st 0 := rfl
  simp only [hst, hz, hs, Bool.false_eq_true, if_false, if_true]
  rfl

/-- Settles O38: the root as a number of many bits is delivered; a negative operand is answered with IE. -/
theorem fsqrtRoundsTheExactRoot : Obligations.FsqrtRoundsTheExactRoot := by
  intro q s p hr hpc he
  obtain ⟨u, hb, hexec, hmem, hcompleted⟩ := (runs_numRegP (i := .fsqrt q) (body := squareRoot) rfl rfl hr hpc).framed
    (framed_squareRoot p)
  have heu : u.stEmpty 0 = false := (hb.stEmpty 0).trans he
  refine ⟨fun hx hs => ?_, fun hx hs => ?_⟩
  · obtain ⟨m, hm, hd, hbits⟩ := mag_sqrt_spec (normal_mag hx).2.1
    obtain ⟨hlo, hhi⟩ := sqrt_bounds hx
    obtain ⟨hp, hp64⟩ := pcBits_bounds hpc
    rw [squareRoot_normal heu (by rwa [hb.st]) (by rwa [hb.st]), hb.st, hb.phys, hm] at hexec hmem hcompleted
    have hn : m.n ≠ 0 := fun h0 => by
      rw [h0] at hbits
      exact absurd hbits (by decide)
    have hval : Real.sqrt ((s.st 0).val : ℝ) = (signOf false : ℚ) * Real.sqrt ((s.st 0).mag.val : ℝ) := by
      rw [Ext.val_eq, hs]
      simp [signOf]
    obtain ⟨hrounded, hregs, hpopped⟩ := hb.rounded_put (drawC320_quiet u) pops_id (k := s.phys 0) (neg := false) hp hp64
      hn hd (fun _ => by omega) hlo hhi hval
    exact ⟨_, hexec, hrounded, hregs, hpopped, hmem, hcompleted⟩
  · rw [squareRoot_negative heu (by rwa [hb.st]) (by rwa [hb.st]), hb.phys] at hexec hmem hcompleted
    obtain ⟨hraised, hmasked, hunmasked⟩ := hb.respond_put (drawC320_quiet u) pops_id .ie (s.phys 0) indefinite
    have hpopped : ∀ b, masked s.cw .ie = b → s.Popped _ none 0 := fun b hm => by
      cases b with
      | false => exact (hunmasked hm).2
      | true => exact popped_none he (hmasked hm).2.2.1
    refine ⟨_, hexec, hraised, hpopped _ rfl, hmem, hcompleted, fun hm => ?_, fun hm => (hunmasked hm).1⟩
    obtain ⟨hreg, hregs, hpop, hc1⟩ := hmasked hm
    refine ⟨?_, hregs, hc1⟩
    rw [st_of_top (s := s) (by simpa using hpop.1)]
    exact hreg

end Sys2Proof.Machine

/-! # FRNDINT, FSCALE and FXTRACT (O39, O40, O41) -/

namespace Sys2Proof.Machine

/-! ## FRNDINT (R248) -/

theorem roundToInteger_zero {u : State} (he : u.stEmpty 0 = false) (hz : (u.st 0).isZero = true) :
    roundToInteger u = u.drawC320.setC1 false := by
  have hn : Ext.isNumber (u.st 0) = true := isNumber_of_class (.inr (.inl hz))
  have hgo : roundToInteger u = _ := oneOperand_number (s := u.drawC320) he hn
  rw [hgo]
  have hst : u.drawC320.st 0 = u.st 0 := rfl
  simp only [hst, hz, Bool.or_true, if_true]

/-- The delivery that FRNDINT makes of its rounding. -/
def roundedDelivery (rc : Rounding) (x : Ext) : Delivery Ext :=
  .rounded (pack x.sign (roundInt x.sign rc x.mag)) [] (roundInt x.sign rc x.mag)

theorem deliverTo_rounded (t : State) (k : Fin 8) (v : Ext) (r : Rounded) :
    t.deliverTo k (.rounded v [] r) = ((t.raiseIf r.inexact .pe).setC1 r.up).putReg k v := by
  obtain ⟨n, e, inexact, up⟩ := r
  cases inexact <;> rfl

theorem roundToInteger_normal {u : State} (he : u.stEmpty 0 = false) (hx : classify (u.st 0) = .normal) :
    roundToInteger u =
      if 63 ≤ (u.st 0).mag.log2 then u.drawC320.setC1 false
      else u.drawC320.deliverTo (u.phys 0) (roundedDelivery u.rc (u.st 0)) := by
  obtain ⟨hz, hi, hd, hn⟩ := normal_class hx
  have hgo : roundToInteger u = _ := oneOperand_number (s := u.drawC320) he hn
  rw [hgo]
  have hst : u.drawC320.st 0 = u.st 0 := rfl
  simp only [hst, hz, hi, Bool.or_self, Bool.false_eq_true, if_false]
  rw [denormThen_of_eq_false hd]
  split
  · rfl
  · exact (deliverTo_rounded _ _ _ _).symm

/-- A number of the magnitude of `2^63` or more is an integer. -/
theorem integer_of_large {x : Ext} (hx : classify x = .normal) (h : 63 ≤ x.mag.log2) : ∃ z : ℤ, x.val = z := by
  obtain ⟨hlog, -, -, -, -⟩ := normal_mag hx
  unfold Mag.log2 at h
  rw [hlog] at h
  obtain ⟨c, hc⟩ := Int.eq_ofNat_of_zero_le (show 0 ≤ x.mag.k by omega)
  refine ⟨signedInt x.sign (x.mag.n * 2 ^ c), ?_⟩
  rw [signedInt_cast, Ext.val_eq, Mag.val, hc]
  push_cast
  rfl

theorem roundsToInt_self (rc : Rounding) (z : ℤ) : RoundsToInt rc (z : ℝ) z := roundsAmong_self ⟨z, rfl⟩

theorem mag_val_lt {x : Ext} {a : ℤ} (h : x.mag.log2 < a) : (x.mag.val : ℝ) < 2 ^ a := by
  by_cases h0 : x.mag.n = 0
  · rw [Mag.val_eq_zero.mpr h0, Rat.cast_zero]
    positivity
  · exact ((Mag.denotes_val x.mag_more).log2_bounds h0).2.trans_le (zpow_le_zpow_right₀ one_le_two (by omega))

/-- A rounding of a small number to an integer is delivered as that integer. -/
theorem pack_roundInt (rc : Rounding) {x : Ext} (h : x.mag.log2 < 63) :
    (pack x.sign (roundInt x.sign rc x.mag)).val = signedInt x.sign (roundInt x.sign rc x.mag).n
      ∧ (pack x.sign (roundInt x.sign rc x.mag)).sign = x.sign
      ∧ (pack x.sign (roundInt x.sign rc x.mag)).ordinary = true := by
  have hk : (roundInt x.sign rc x.mag).k = 0 := rfl
  have hn : (roundInt x.sign rc x.mag).n ≤ 2 ^ 63 := by
    refine (roundUnit_n x.sign rc x.mag 0).2.trans ?_
    obtain ⟨h1, -⟩ := splitAt_bounds (t := 0) (Mag.denotes_val x.mag_more) fun hc => by cases hc
    rw [zpow_zero, mul_one] at h1
    have : ((splitAt x.mag 0).1 : ℝ) < 2 ^ (63 : ℤ) := h1.trans_lt (mag_val_lt h)
    exact_mod_cast this
  rw [← roundInt_val]
  generalize roundInt x.sign rc x.mag = r at *
  by_cases h0 : r.n = 0
  · rw [pack, if_pos h0, val_zeroExt, Rounded.val, h0]
    exact ⟨by simp, rfl, ordinary_zeroExt _⟩
  · have hlog : r.log2 = r.n.log2 := by rw [Rounded.log2, hk, add_zero]
    have := log2_le_63 (n := r.n) (by omega)
    obtain ⟨hc, hv, hs⟩ := pack_normal x.sign h0 (by omega) (by omega) (by omega)
    exact ⟨hv, hs, ordinary_of_normal hc⟩

/-- PE is raised exactly when the value has changed. -/
theorem inexact_flags {inexact : Bool} {a b : ℚ} (h : inexact = true ↔ a ≠ b) :
    (if inexact then [Exc.pe] else []) = if a = b then [] else [.pe] := by
  split
  next hi => rw [if_neg (h.mp hi)]
  next hi => rw [if_pos (not_not.mp (mt h.mpr hi))]

/-- Settles O39: a zero and a large number stay; any other is delivered rounded. -/
theorem frndintRoundsToAnInteger : Obligations.FrndintRoundsToAnInteger := by
  intro q s hr he hx
  obtain ⟨u, hb, hexec, hmem, hcompleted⟩ := (runs_numReg (i := .frndint q) (body := roundToInteger) rfl rfl hr).framed
    framed_roundToInteger
  have heu : u.stEmpty 0 = false := (hb.stEmpty 0).trans he
  have stays : ∀ z : ℤ, roundToInteger u = u.drawC320.setC1 false → (s.st 0).val = z →
      ∃ t, ∃ z : ℤ, exec (.frndint q) s = .next t ∧ (t.reg (s.phys 0)).val = z
        ∧ RoundsToInt s.rc ((s.st 0).val : ℝ) z ∧ (t.reg (s.phys 0)).sign = (s.st 0).sign
        ∧ (t.reg (s.phys 0)).ordinary = true
        ∧ s.Raised t (if (z : ℚ) = (s.st 0).val then [] else [.pe])
        ∧ (t.sw.c1 = true ↔ |(s.st 0).val| < |(z : ℚ)|)
        ∧ s.KeepsRegs t [s.phys 0] ∧ s.Popped t (some (s.phys 0)) 0 ∧ s.KeepsMemory t []
        ∧ s.CompletedNumeric t (.frndint q) := fun z hbody hz => by
    rw [hbody] at hexec hmem hcompleted
    obtain ⟨hraised, hc1, hregs, hpopped, hreg⟩ := hb.left_quiet (drawC320_quiet u)
    have hreg : State.reg _ (s.phys 0) = s.st 0 := hreg (s.phys 0)
    refine ⟨_, z, hexec, by rw [hreg, hz], ?_, by rw [hreg], by rwa [hreg], by rwa [if_pos hz.symm], ?_,
      keepsRegs_mono hregs, popped_some he hpopped, hmem, hcompleted⟩
    · rw [hz, Rat.cast_intCast]
      exact roundsToInt_self _ z
    · rw [hc1, hz]
      simp
  rcases ordinary_cases hx with hz | hn
  · exact stays 0 (roundToInteger_zero heu (by rwa [hb.st])) (by rw [Ext.val_of_zero hz, Int.cast_zero])
  · have hbody := roundToInteger_normal heu (by rwa [hb.st])
    rw [hb.st, hb.phys, hb.rc] at hbody
    by_cases hlarge : 63 ≤ (s.st 0).mag.log2
    · obtain ⟨z, hz⟩ := integer_of_large hn hlarge
      rw [if_pos hlarge] at hbody
      exact stays z hbody hz
    · rw [if_neg hlarge] at hbody
      rw [hbody] at hexec hmem hcompleted
      obtain ⟨hval, hsign, hordinary⟩ := pack_roundInt s.rc (not_le.mp hlarge)
      obtain ⟨hrounds, hinexact, hup⟩ := roundInt_ext s.rc (s.st 0)
      obtain ⟨hreg, hraised, hc1, hregs, hpopped⟩ :=
        hb.deliverTo_put (drawC320_quiet u) pops_id (s.phys 0) (roundedDelivery s.rc (s.st 0))
      refine ⟨_, _, hexec, (congrArg Ext.val hreg).trans hval, hrounds, (congrArg Ext.sign hreg).trans hsign,
        (congrArg Ext.ordinary hreg).trans hordinary, ?_, ?_, hregs, hpopped, hmem, hcompleted⟩
      · rw [← inexact_flags hinexact]
        exact hraised
      · exact (Bool.eq_iff_iff.mp hc1).trans hup

/-! ## FSCALE (R246) -/

/-- A result that needs no rounding. -/
theorem rounded_exact {s t : State} {k : Fin 8} {p : ℕ} {e : ℚ} (h : rounded s t k p (e : ℝ))
    (he : Representable p (e : ℝ)) :
    (t.reg k).val = e ∧ classify (t.reg k) = .normal ∧ s.Raised t [] ∧ t.sw.c1 = false := by
  obtain ⟨hr, hc, hexact, -, hc1⟩ := h
  have hval := roundsAmong_eq_self he hr
  refine ⟨by exact_mod_cast hval, hc, hexact hval, ?_⟩
  rw [hval] at hc1
  simpa using hc1

theorem representable_of_mag {neg : Bool} {m : Mag} {p : ℕ} (h : m.n < 2 ^ p) :
    Representable p ((signOf neg * m.val : ℚ) : ℝ) := by
  refine ⟨signedInt neg m.n, m.k, ?_, ?_⟩
  · have habs : |signedInt neg m.n| = m.n := by cases neg <;> simp [signedInt]
    rw [habs]
    exact_mod_cast h
  · have hcast : ((signedInt neg m.n : ℤ) : ℝ) = ((signOf neg * m.n : ℚ) : ℝ) := by
      rw [← signedInt_cast, Rat.cast_intCast]
    rw [hcast, Mag.val]
    push_cast
    ring

theorem scaleBy_ordinary {u : State} (h0 : u.stEmpty 0 = false) (h1 : u.stEmpty 1 = false)
    (hx : classify (u.st 0) = .normal) (hy : (u.st 1).ordinary = true) :
    scaleBy u =
      if chopInt (u.st 1) = 0 then u.drawC320.setC1 false
      else u.drawC320.deliverSt (u.phys 0) (u.st 0).sign ((u.st 0).mag.scale (chopInt (u.st 1))) 64 := by
  obtain ⟨hz, hi, hd, hn⟩ := normal_class hx
  obtain ⟨hyi, hyd, hyn⟩ := ordinary_class hy
  have hgo : scaleBy u = _ := twoOperands_numbers (s := u.drawC320) h0 h1 hn hyn
  rw [hgo]
  have hst : u.drawC320.st 0 = u.st 0 := rfl
  have hst1 : u.drawC320.st 1 = u.st 1 := rfl
  simp only [hst, hst1, hz, hi, hyi, Bool.or_self, Bool.false_and, Bool.false_eq_true, if_false]
  rw [denormThen_of_eq_false (by rw [hd, hyd]; rfl)]
  rfl

theorem mag_scale_val (m : Mag) (j : ℤ) : (m.scale j).val = m.val * 2 ^ j := by
  unfold Mag.val Mag.scale
  rw [zpow_add₀ two_ne_zero, mul_assoc]

/-- Settles O40: the scaled number has the significand it had, so its delivery is exact. -/
theorem fscaleMultipliesByAPowerOfTwo : Obligations.FscaleMultipliesByAPowerOfTwo := by
  intro q s k hr h0 h1 hx hy hk hrange
  obtain ⟨u, hb, hexec, hmem, hcompleted⟩ := (runs_numReg (i := .fscale q) (body := scaleBy) rfl rfl hr).framed
    framed_scaleBy
  have hbody := scaleBy_ordinary ((hb.stEmpty 0).trans h0) ((hb.stEmpty 1).trans h1) (by rwa [hb.st]) (by rwa [hb.st])
  rw [hb.st, hb.st, hb.phys, (chopInt_spec (s.st 1)).unique hk] at hbody
  split at hbody
  next hk0 =>
    rw [hbody] at hexec hmem hcompleted
    obtain ⟨hraised, hc1, hregs, hpopped, hreg⟩ := hb.left_quiet (drawC320_quiet u)
    have hreg : State.reg _ (s.phys 0) = s.st 0 := hreg (s.phys 0)
    exact ⟨_, hexec, by rw [hreg, hk0, zpow_zero, mul_one], by rwa [hreg], hc1, hraised, keepsRegs_mono hregs,
      popped_some h0 hpopped, hmem, hcompleted⟩
  next hk0 =>
    rw [hbody] at hexec hmem hcompleted
    have hval : signOf (s.st 0).sign * ((s.st 0).mag.scale k).val = (s.st 0).val * 2 ^ k := by
      rw [mag_scale_val, ← mul_assoc, ← Ext.val_eq]
    have hexact : ExactlyOf ((s.st 0).val * 2 ^ k) ((s.st 0).sign, (s.st 0).mag.scale k) :=
      exactlyOf_val hrange.ne_zero rfl hval
    obtain ⟨hrounded, hregs, hpopped⟩ := hb.exactly_put (drawC320_quiet u) pops_id (k := s.phys 0) (p := 64) (by norm_num)
      le_rfl hexact hrange
    obtain ⟨hreg, hc, hraised, hc1⟩ := rounded_exact hrounded
      (hval ▸ representable_of_mag (m := (s.st 0).mag.scale k) (mag_n_lt (s.st 0)))
    exact ⟨_, hexec, hreg, hc, hc1, hraised, hregs, hpopped, hmem, hcompleted⟩

end Sys2Proof.Machine

/-! # FXTRACT (O41) -/

namespace Sys2Proof.Machine

/-- A result in ST and a push: the old register holds the one, the new ST the other. -/
theorem put_push_spec {s t : State} (h : s.Steady t) (h0 : s.stEmpty 0 = false) (a b : Ext) :
    let w := (t.putReg (s.phys 0) a).push b
    w.sw.top = s.sw.top - 1 ∧ w.st 0 = b ∧ w.stEmpty 0 = false ∧ w.st 1 = a ∧ w.stEmpty 1 = false
      ∧ w.reg (s.phys 0) = a ∧ s.KeepsRegs w [s.phys 0, s.phys 7] ∧ s.KeepsTags w [s.phys 7] := by
  intro w
  obtain ⟨htop, hst, hempty, hregs, htags⟩ := push_spec (t.putReg (s.phys 0) a) b
  have h7 : (t.putReg (s.phys 0) a).phys 7 = s.phys 7 := h.phys 7
  rw [h7] at hregs htags
  have htop : w.sw.top = s.sw.top - 1 := by
    rw [← h.top]
    exact htop
  have hphys : w.phys 1 = s.phys 0 := by
    rw [State.phys, State.phys, htop, sub_add_cancel, add_zero]
  have hne : s.phys 0 ∉ [s.phys 7] := by simpa using phys_zero_ne_seven s
  have hreg : ∀ k, k ∉ [s.phys 7] → w.reg k = if k = s.phys 0 then a else s.reg k := fun k hk => by
    rw [← h.reg, ← reg_putReg]
    exact hregs k hk
  have htag : ∀ k, k ∉ [s.phys 7] → w.isEmpty k = if k = s.phys 0 then false else s.isEmpty k := fun k hk => by
    rw [← h.isEmpty, ← isEmpty_putReg t (s.phys 0) k a]
    exact htags k hk
  refine ⟨htop, hst, hempty, ?_, ?_, ?_, fun k hk => ?_, fun k hk => ?_⟩
  · rw [State.st, hphys, hreg _ hne, if_pos rfl]
  · rw [State.stEmpty, hphys, htag _ hne, if_pos rfl]
  · rw [hreg _ hne, if_pos rfl]
  · obtain ⟨hk0, hk7⟩ : k ≠ s.phys 0 ∧ k ≠ s.phys 7 := by simpa using hk
    rw [hreg k (by simpa using hk7), if_neg hk0]
  · rw [htag k hk]
    split
    next hk0 => rw [hk0]; exact h0.symm
    · rfl

theorem extract_normal {u : State} (he : u.stEmpty 0 = false) (hfull : u.full7 = false)
    (hx : classify (u.st 0) = .normal) :
    extract u = (u.drawC320ClearC1.putReg (u.phys 0) (extractParts (u.st 0)).1).push (extractParts (u.st 0)).2 := by
  obtain ⟨hz, hi, hd, hn⟩ := normal_class hx
  have he' : u.drawC320ClearC1.stEmpty 0 = false := he
  have hfull' : u.drawC320ClearC1.full7 = false := hfull
  have hst : u.drawC320ClearC1.st 0 = u.st 0 := rfl
  simp only [extract, oneOperandPush, hfull', Bool.and_false, Bool.false_eq_true, if_false]
  rw [oneOperand_number he' hn]
  simp only [hst, hz, hi, Bool.false_eq_true, if_false]
  exact denormThen_of_eq_false hd

/-- The exponent is an integer, the significand is at least 1 and below 2, and the operand is their product. -/
theorem extractParts_spec {x : Ext} (h : classify x = .normal) :
    (extractParts x).1.ordinary = true ∧ (extractParts x).2.ordinary = true
      ∧ (extractParts x).1.val = x.mag.log2 ∧ x.val = (extractParts x).2.val * 2 ^ x.mag.log2
      ∧ 1 ≤ |(extractParts x).2.val| ∧ |(extractParts x).2.val| < 2 := by
  obtain ⟨hlog, hn0, -, hlo, hhi⟩ := normal_mag h
  obtain ⟨ho, hv, -⟩ := extOfInt_spec (i := x.mag.log2) (by omega)
  obtain ⟨hsig, hval⟩ := alignSig_spec hn0 (mag_n_lt x).le
  obtain ⟨hc, hv2⟩ := normal_pattern (s := x.sign) (e := 0) (by norm_num) (by norm_num) hsig
  have hparts : (extractParts x).2 = ⟨x.sign, BitVec.ofInt 15 (0 + 16383), alignSig x.mag.n⟩ := rfl
  rw [hparts]
  have hlt := (alignSig x.mag.n).isLt
  generalize (alignSig x.mag.n).toNat = b at *
  rw [hlog] at hval
  have hb : b = x.mag.n := Nat.eq_of_mul_eq_mul_right (by positivity) hval
  have habs : |Ext.val ⟨x.sign, BitVec.ofInt 15 (0 + 16383), alignSig x.mag.n⟩| = b / 2 ^ 63 := by
    rw [hv2, abs_mul, abs_signOf, one_mul, abs_of_nonneg (by positivity), zero_sub, zpow_neg]
    rfl
  refine ⟨ho, ordinary_of_normal hc, hv, ?_, ?_, ?_⟩
  · rw [hv2, Ext.val_eq, Mag.val, Mag.log2, hlog, hb, mul_assoc, mul_assoc, ← zpow_add₀ two_ne_zero]
    congr 3
    push_cast
    ring
  · rw [habs, one_le_div (by positivity)]
    exact_mod_cast hsig
  · rw [habs, div_lt_iff₀ (by positivity)]
    exact_mod_cast hlt

/-- Settles O41. -/
theorem fxtractSplitsANumber : Obligations.FxtractSplitsANumber := by
  intro q s hr he hfull hx
  obtain ⟨u, hb, hexec, hmem, hcompleted⟩ := (runs_numReg (i := .fxtract q) (body := extract) rfl rfl hr).framed
    framed_extract
  rw [extract_normal ((hb.stEmpty 0).trans he) (hb.full7.trans hfull) (by rwa [hb.st]), hb.st, hb.phys] at hexec hmem hcompleted
  obtain ⟨ho1, ho2, hv1, hv, hlo, hhi⟩ := extractParts_spec hx
  have hq := drawC320ClearC1_quiet u
  have hspec := put_push_spec hq.toSteady ((hb.stEmpty 0).trans he) (extractParts (s.st 0)).1 (extractParts (s.st 0)).2
  simp only [hb.phys] at hspec
  obtain ⟨htop, hst0, he0, hst1, he1, -, hregs, htags⟩ := hspec
  refine ⟨_, hexec, by rw [← hb.sw]; exact htop, ⟨_, (congrArg Ext.val hst1).trans hv1, ?_⟩, ?_, ?_,
    (congrArg Ext.ordinary hst1).trans ho1, (congrArg Ext.ordinary hst0).trans ho2, he0, he1, rfl,
    hb.raised (raised_of_errors (hq.raised (raised_nil _)) rfl), hb.keepsRegs hregs, hb.keepsTags htags, hmem, hcompleted⟩
  · exact hv.trans (congrArg (fun x : Ext => x.val * 2 ^ (s.st 0).mag.log2) hst0.symm)
  · exact hlo.trans_eq (congrArg (fun x : Ext => |x.val|) hst0.symm)
  · exact (congrArg (fun x : Ext => |x.val|) hst0).trans_lt hhi

end Sys2Proof.Machine

/-! # FPREM and FPREM1 (O43)

The quotient of two exact magnitudes and what is left: the order of magnitudes, `divMag` and `divNearest`, each as a
statement about the numbers; the remainder fits a register, so its delivery is exact. -/

namespace Sys2Proof

/-! ## The order of magnitudes -/

theorem compare_natCast (a b : ℕ) {u : ℚ} (hu : 0 < u) : compare a b = compare ((a : ℚ) * u) (b * u) := by
  rcases lt_trichotomy a b with h | h | h
  · rw [compare_lt_iff_lt.mpr h, eq_comm, compare_lt_iff_lt]
    gcongr
  · rw [h, compare_eq_iff_eq.mpr rfl, eq_comm, compare_eq_iff_eq]
  · rw [compare_gt_iff_gt.mpr h, eq_comm, compare_gt_iff_gt]
    gcongr

theorem Mag.val_log2_bounds {m : Mag} (h : m.n ≠ 0) : (2 : ℚ) ^ m.log2 ≤ m.val ∧ m.val < 2 ^ (m.log2 + 1) := by
  have hb := Mag.Denotes.log2_bounds (m := { n := m.n, k := m.k }) (Mag.denotes_val rfl) h
  have hval : Mag.val { n := m.n, k := m.k } = m.val := rfl
  have hlog : Mag.log2 { n := m.n, k := m.k } = m.log2 := rfl
  rw [hval, hlog] at hb
  exact ⟨(Rat.cast_le (K := ℝ)).mp (by rw [Rat.cast_zpow, Rat.cast_ofNat]; exact hb.1),
    (Rat.cast_lt (K := ℝ)).mp (by rw [Rat.cast_zpow, Rat.cast_ofNat]; exact hb.2)⟩

/-- `Mag.cmp` is the order of the numbers. -/
theorem mag_cmp (a b : Mag) : a.cmp b = compare a.val b.val := by
  unfold Mag.cmp
  split
  next h0 =>
    rcases h0 with h0 | h0
    · have hb := compare_natCast 0 b.n (u := 2 ^ b.k) (by positivity)
      rw [h0, hb, Mag.val_eq_zero.mpr h0]
      simp [Mag.val]
    · have ha := compare_natCast a.n 0 (u := 2 ^ a.k) (by positivity)
      rw [h0, ha, Mag.val_eq_zero.mpr h0]
      simp [Mag.val]
  next h0 =>
    obtain ⟨ha0, hb0⟩ := not_or.mp h0
    obtain ⟨ha1, ha2⟩ := Mag.val_log2_bounds ha0
    obtain ⟨hb1, hb2⟩ := Mag.val_log2_bounds hb0
    split
    next hlog =>
      rcases lt_or_gt_of_ne hlog with h | h
      · rw [compare_lt_iff_lt.mpr h, eq_comm, compare_lt_iff_lt]
        exact ha2.trans_le ((zpow_le_zpow_right₀ one_le_two (by omega)).trans hb1)
      · rw [compare_gt_iff_gt.mpr h, eq_comm, compare_gt_iff_gt]
        exact hb2.trans_le ((zpow_le_zpow_right₀ one_le_two (by omega)).trans ha1)
    next =>
      rw [compare_natCast _ _ (u := 2 ^ min a.k b.k) (by positivity), Machine.shiftUp_val a (min_le_left _ _),
        Machine.shiftUp_val b (min_le_right _ _)]

/-! ## Rounding of a quotient to an integer -/

/-- A number rounds to its integer part or the next integer, as the rest says; of a negative number the modes that do
not look at the sign round the magnitude. -/
theorem roundsToInt_signed {rc : Rounding} (hflip : rc.flip = rc) {neg : Bool} {v : ℝ} {q : ℕ} {r : Rest}
    (hr : r.Holds (v - q)) :
    RoundsToInt rc ((signOf neg : ℚ) * v) (signedInt neg (if r != .none && roundsUp false rc q r then q + 1 else q)) := by
  have hpos : RoundsToInt rc v ((if r != .none && roundsUp false rc q r then q + 1 else q : ℕ) : ℤ) := by
    by_cases hne : r = .none
    · subst hne
      have hv : v = q := sub_eq_zero.mp hr
      rw [hv]
      exact Machine.roundsToInt_self rc q
    · have hbne : (r != .none) = true := by simpa using hne
      have h := (neighbours_multiple q 0).rounds (rc := rc) (x := v) (E := EvenMultiple 0) (by positivity)
        (by simpa using hr) hne (evenMultiple_of_even 0) (evenMultiple_of_even_succ 0)
      rw [multiple_zero, evenMultiple_zero, zpow_zero, mul_one] at h
      rw [hbne, Bool.true_and]
      unfold RoundsToInt
      convert h using 1
      split <;> push_cast <;> rfl
  generalize (if r != .none && roundsUp false rc q r then q + 1 else q : ℕ) = n at *
  cases neg with
  | false => simpa [signOf, signedInt] using hpos
  | true =>
    have h := roundsAmong_neg (rc := rc) (C := fun z : ℝ => ∃ n : ℤ, z = n) (E := fun z : ℝ => ∃ n : ℤ, Even n ∧ z = n)
      (fun z ⟨m, hm⟩ => ⟨-m, by rw [hm]; push_cast; rfl⟩) (fun z ⟨m, he, hm⟩ => ⟨-m, he.neg, by rw [hm]; push_cast; rfl⟩)
      (by rw [hflip]; exact hpos)
    simpa [signOf, signedInt, RoundsToInt] using h

end Sys2Proof

namespace Sys2Proof.Machine

/-! ## Division of magnitudes (R262, R263) -/

/-- Quotient and remainder. -/
theorem divMag_spec {a b : Mag} (hb0 : b.n ≠ 0) (ha : a.n < 2 ^ 64) (hb : b.n < 2 ^ 64) :
    a.val = (divMag a b).1 * b.val + (divMag a b).2.val ∧ (divMag a b).2.val < b.val ∧ (divMag a b).2.n < 2 ^ 64
      ∧ (divMag a b).2.more = false ∧ (divMag a b).2.k = min a.k b.k := by
  have hx := shiftUp_val a (min_le_left a.k b.k)
  have hy := shiftUp_val b (min_le_right a.k b.k)
  have hsmall : shiftUp a.n (a.k - min a.k b.k) < 2 ^ 64 ∨ shiftUp b.n (b.k - min a.k b.k) < 2 ^ 64 := by
    rcases min_choice a.k b.k with h | h
    · exact .inl (by rw [h, sub_self]; exact ha)
    · exact .inr (by rw [h, sub_self]; exact hb)
  have hypos : 0 < shiftUp b.n (b.k - min a.k b.k) := by
    rw [shiftUp, Nat.shiftLeft_eq]
    exact Nat.mul_pos (Nat.pos_of_ne_zero hb0) (by positivity)
  simp only [divMag]
  rw [← hx, ← hy]
  simp only [Mag.val]
  generalize shiftUp a.n (a.k - min a.k b.k) = x at *
  generalize shiftUp b.n (b.k - min a.k b.k) = y at *
  have hdiv : (x : ℚ) = y * (x / y : ℕ) + (x % y : ℕ) := by exact_mod_cast (Nat.div_add_mod x y).symm
  have hmod := Nat.mod_lt x hypos
  refine ⟨?_, ?_, ?_, trivial, trivial⟩
  · nth_rewrite 1 [hdiv]
    ring
  · gcongr
  · rcases hsmall with h | h
    · exact (Nat.mod_le x y).trans_lt h
    · exact hmod.trans h

/-- `n` is the quotient of `a` by `b` as `rc` rounds it, and `m`, negated when `flip` holds, is exactly what is left. -/
structure Divides (rc : Rounding) (a b : Mag) (n : ℕ) (flip : Bool) (m : Mag) : Prop where
  rounds : ∀ neg, RoundsToInt rc ((signOf neg * (a.val / b.val) : ℚ) : ℝ) (signedInt neg n)
  remainder : a.val - n * b.val = signOf flip * m.val
  small : m.n < 2 ^ 64
  more : m.more = false

theorem half_cast : ((1 / 2 : ℚ) : ℝ) = 1 / 2 := by norm_num

theorem exists_rest {f : ℝ} (h0 : 0 ≤ f) (h1 : f < 1) : ∃ r : Rest, r.Holds f := by
  rcases h0.eq_or_lt with h | h
  · exact ⟨.none, h.symm⟩
  rcases lt_trichotomy f (1 / 2) with h2 | h2 | h2
  · exact ⟨.below, h, h2⟩
  · exact ⟨.half, h2⟩
  · exact ⟨.above, h2, h1⟩

theorem rounds_quotient {rc : Rounding} (hflip : rc.flip = rc) {a b : Mag} {q : ℕ} {r : Rest}
    (hr : r.Holds ((a.val / b.val - q : ℚ) : ℝ)) (neg : Bool) :
    RoundsToInt rc ((signOf neg * (a.val / b.val) : ℚ) : ℝ)
      (signedInt neg (if r != .none && roundsUp false rc q r then q + 1 else q)) := by
  rw [Rat.cast_mul]
  exact roundsToInt_signed hflip (by rwa [Rat.cast_sub, Rat.cast_natCast] at hr)

section Divide

variable {a b : Mag} (hb0 : b.n ≠ 0) (ha : a.n < 2 ^ 64) (hb : b.n < 2 ^ 64)
include hb0 ha hb

/-- What is left is the fractional part of the quotient. -/
theorem divMag_fraction : a.val / b.val - (divMag a b).1 = (divMag a b).2.val / b.val
    ∧ 0 ≤ (divMag a b).2.val / b.val ∧ (divMag a b).2.val / b.val < 1 := by
  obtain ⟨hval, hlt, -⟩ := divMag_spec hb0 ha hb
  have hbpos : 0 < b.val := lt_of_le_of_ne b.val_nonneg (Ne.symm (mt Mag.val_eq_zero.mp hb0))
  refine ⟨?_, div_nonneg (Mag.val_nonneg _) hbpos.le, (div_lt_one hbpos).mpr hlt⟩
  rw [eq_div_iff hbpos.ne', sub_mul, div_mul_cancel₀ _ hbpos.ne', hval]
  ring

theorem divides_chop : Divides .chop a b (divMag a b).1 false (divMag a b).2 := by
  obtain ⟨hval, -, hsmall, hmore, -⟩ := divMag_spec hb0 ha hb
  obtain ⟨hfrac, h0, h1⟩ := divMag_fraction hb0 ha hb
  refine ⟨fun neg => ?_, ?_, hsmall, hmore⟩
  · obtain ⟨r, hr⟩ := exists_rest (f := (((divMag a b).2.val / b.val : ℚ) : ℝ)) (by exact_mod_cast h0) (by exact_mod_cast h1)
    rw [← hfrac] at hr
    simpa [roundsUp] using rounds_quotient (rc := .chop) rfl hr neg
  · rw [hval]
    simp [signOf]

/-- The remainder on the other side, when the quotient is rounded up. -/
theorem divMag_complement (hhalf : b.val ≤ 2 * (divMag a b).2.val) :
    a.val - ((divMag a b).1 + 1 : ℕ) * b.val = signOf true * (Mag.addSigned false b true (divMag a b).2).2.val
      ∧ (Mag.addSigned false b true (divMag a b).2).2.n < 2 ^ 64
      ∧ (Mag.addSigned false b true (divMag a b).2).2.more = false := by
  obtain ⟨hval, hlt, hsmall, -, hk⟩ := divMag_spec hb0 ha hb
  generalize divMag a b = d at *
  obtain ⟨q, r⟩ := d
  simp only at *
  have hrk : min b.k r.k = r.k := by rw [hk]; omega
  have hshift := shiftUp_val b (show r.k ≤ b.k by rw [hk]; exact min_le_right _ _)
  have hx : shiftUp r.n (r.k - r.k) = r.n := by
    rw [sub_self]
    exact Nat.shiftLeft_zero
  have hpos : (0 : ℚ) < 2 ^ r.k := by positivity
  have hle : r.n < shiftUp b.n (b.k - r.k) := by
    rw [← hshift, Mag.val] at hlt
    exact_mod_cast lt_of_mul_lt_mul_right hlt hpos.le
  have hle2 : shiftUp b.n (b.k - r.k) ≤ 2 * r.n := by
    rw [← hshift, Mag.val, ← mul_assoc] at hhalf
    exact_mod_cast le_of_mul_le_mul_right hhalf hpos
  have hadd : (Mag.addSigned false b true r).2 = { n := shiftUp b.n (b.k - r.k) - r.n, k := r.k } := by
    simp only [Mag.addSigned, hrk, hx, Bool.false_eq_true, if_false, if_pos hle.le]
  rw [hadd]
  refine ⟨?_, by simp only; omega, rfl⟩
  rw [hval]
  simp only [Mag.val, signOf, if_true]
  rw [Nat.cast_sub hle.le, sub_mul, hshift]
  simp only [Mag.val]
  push_cast
  ring

theorem divides_nearest :
    Divides .nearest a b (divNearest a b).1 (divNearest a b).2.1 (divNearest a b).2.2 := by
  obtain ⟨hval, -, hsmall, hmore, -⟩ := divMag_spec hb0 ha hb
  obtain ⟨hfrac, h0, h1⟩ := divMag_fraction hb0 ha hb
  have hbpos : 0 < b.val := lt_of_le_of_ne b.val_nonneg (Ne.symm (mt Mag.val_eq_zero.mp hb0))
  have hscale : ((divMag a b).2.scale 1).val = 2 * (divMag a b).2.val := by
    rw [mag_scale_val, zpow_one, mul_comm]
  have hcomplement := divMag_complement hb0 ha hb
  have rounds : ∀ {r : Rest} {n : ℕ}, r.Holds (((divMag a b).2.val / b.val : ℚ) : ℝ) →
      (if r != .none && roundsUp false .nearest (divMag a b).1 r then (divMag a b).1 + 1 else (divMag a b).1) = n →
      ∀ neg, RoundsToInt .nearest ((signOf neg * (a.val / b.val) : ℚ) : ℝ) (signedInt neg n) := fun hr hn neg => by
    rw [← hfrac] at hr
    rw [← hn]
    exact rounds_quotient (rc := .nearest) rfl hr neg
  have stays : Divides .nearest a b (divMag a b).1 false (divMag a b).2 ↔
      ∀ neg, RoundsToInt .nearest ((signOf neg * (a.val / b.val) : ℚ) : ℝ) (signedInt neg (divMag a b).1) :=
    ⟨fun h => h.rounds, fun h => ⟨h, by rw [hval]; simp [signOf], hsmall, hmore⟩⟩
  unfold divNearest
  simp only [mag_cmp, hscale]
  split
  next h =>
    rw [compare_lt_iff_lt] at h
    refine stays.mpr fun neg => ?_
    have hlt : (divMag a b).2.val / b.val < 1 / 2 := by
      rw [div_lt_div_iff₀ hbpos two_pos]
      linarith
    rcases h0.eq_or_lt with h00 | h00
    · exact rounds (r := .none) (by rw [← h00]; exact Rat.cast_zero) rfl neg
    · exact rounds (r := .below) ⟨by exact_mod_cast h00, half_cast ▸ (Rat.cast_lt (K := ℝ)).mpr hlt⟩ rfl neg
  next h =>
    rw [compare_gt_iff_gt] at h
    obtain ⟨hrem, hn, hm⟩ := hcomplement h.le
    have hgt : 1 / 2 < (divMag a b).2.val / b.val := by
      rw [div_lt_div_iff₀ two_pos hbpos]
      linarith
    exact ⟨rounds (r := .above) ⟨half_cast ▸ (Rat.cast_lt (K := ℝ)).mpr hgt, by exact_mod_cast h1⟩ rfl, hrem, hn, hm⟩
  next h =>
    rw [compare_eq_iff_eq] at h
    have hhalf : (((divMag a b).2.val / b.val : ℚ) : ℝ) = 1 / 2 := by
      have : (divMag a b).2.val / b.val = 1 / 2 := by
        rw [div_eq_div_iff hbpos.ne' two_ne_zero]
        linarith
      rw [this, half_cast]
    split
    next heven =>
      exact stays.mpr (rounds (r := .half) hhalf (by simp [roundsUp, heven]))
    next hodd =>
      obtain ⟨hrem, hn, hm⟩ := hcomplement h.ge
      exact ⟨rounds (r := .half) hhalf (by simp [roundsUp, Nat.mod_two_ne_zero.mp hodd]), hrem, hn, hm⟩

end Divide

/-! ## The instructions -/

theorem framed_remainder (nearest : Bool) : Framed (remainder nearest) :=
  framed_of_leads fun _ => remainder_leads (List.mem_finRange _)

/-- The body, when both operands are normal. -/
theorem remainder_normal {u : State} {nearest : Bool} (h0 : u.stEmpty 0 = false) (h1 : u.stEmpty 1 = false)
    (hx : classify (u.st 0) = .normal) (hy : classify (u.st 1) = .normal) :
    remainder nearest u = remNumbers nearest (u.st 0) (u.st 1) u.drawC3210 := by
  obtain ⟨hxz, hxi, hxd, hxn⟩ := normal_class hx
  obtain ⟨hyz, hyi, hyd, hyn⟩ := normal_class hy
  have hgo : remainder nearest u = _ := twoOperands_numbers (s := u.drawC3210) h0 h1 hxn hyn
  rw [hgo]
  have hst : u.drawC3210.st 0 = u.st 0 := rfl
  have hst1 : u.drawC3210.st 1 = u.st 1 := rfl
  simp only [hst, hst1, hxi, hyz, Bool.or_self, Bool.false_eq_true, if_false]
  exact denormThen_of_eq_false (by rw [hxd, hyd]; rfl)

/-- A number that fits a register is delivered as it is, whatever the rounding. -/
theorem deliver_exact {neg : Bool} {m : Mag} {rc : Rounding} (cw : Word16) (before : Bool) (hsmall : m.n < 2 ^ 64)
    (hmore : m.more = false) (hrange : inRange (signOf neg * m.val)) :
    (deliver cw before neg m 64 rc).val.val = signOf neg * m.val ∧ classify (deliver cw before neg m 64 rc).val = .normal
      ∧ (deliver cw before neg m 64 rc).flags = [] := by
  have hexact : ExactlyOf (signOf neg * m.val) (neg, m) := exactlyOf_val hrange.ne_zero hmore rfl
  obtain ⟨hlo, hhi⟩ := hrange.cast
  obtain ⟨⟨hrounds, hinexact, -⟩, hnormal, hflags⟩ := deliver_inRange (neg := neg) (rc := rc) (p := 64) (by norm_num) le_rfl
    hexact.nonzero hexact.denotes (fun hm => by rw [hmore] at hm; cases hm) cw before hlo hhi
  rw [← Rat.cast_mul, ← hexact.signed] at hrounds hinexact
  have hval := roundsAmong_eq_self (representable_of_mag hsmall) hrounds
  refine ⟨by exact_mod_cast hval, hnormal, ?_⟩
  have : (deliver cw before neg m 64 rc).inexact = false := by
    by_contra hc
    exact hinexact.mp (by simpa using hc) hval
  rw [hflags, this]
  rfl

theorem sign_of_val {x : Ext} {neg : Bool} {v : ℚ} (hv : 0 < v) (h : x.val = signOf neg * v) : x.sign = neg := by
  rw [Ext.val_eq] at h
  have hm := x.mag.val_nonneg
  cases hs : x.sign <;> cases neg <;> simp only [hs, signOf, Bool.false_eq_true, if_false, if_true] at h ⊢ <;> nlinarith

/-- What a remainder leaves in the register: the exact number, in an ordinary pattern. -/
theorem deliverRem_spec {t : State} {neg flip : Bool} {m : Mag} (hsmall : m.n < 2 ^ 64) (hmore : m.more = false)
    (hrange : signOf (neg != flip) * m.val = 0 ∨ inRange (signOf (neg != flip) * m.val)) :
    ∃ v : Ext, t.deliverRem neg flip m = t.putReg (t.phys 0) v ∧ v.val = signOf (neg != flip) * m.val
      ∧ v.ordinary = true ∧ (flip = false → v.sign = neg) := by
  by_cases h0 : m.n = 0
  · refine ⟨zeroExt neg, if_pos h0, ?_, ordinary_zeroExt neg, fun _ => rfl⟩
    rw [val_zeroExt, Mag.val_eq_zero.mpr h0, mul_zero]
  · have hpos : 0 < m.val := lt_of_le_of_ne m.val_nonneg (Ne.symm (mt Mag.val_eq_zero.mp h0))
    have hne : signOf (neg != flip) * m.val ≠ 0 := mul_ne_zero (signOf_ne_zero _) hpos.ne'
    obtain ⟨hval, hnormal, hflags⟩ := deliver_exact (neg := neg != flip) (rc := t.rc) t.cw t.params.tinyBefore hsmall hmore
      (hrange.resolve_left hne)
    refine ⟨_, (if_neg h0).trans ?_, hval, ordinary_of_normal hnormal, fun hf => ?_⟩
    · show (t.raiseAll (deliver t.cw t.params.tinyBefore (neg != flip) m 64 t.rc).flags).putReg _ _ = _
      rw [hflags]
      rfl
    · have := sign_of_val hpos hval
      rw [this, hf]
      cases neg <;> rfl

/-- A remainder instruction that ends, with the condition code that `v` has. -/
theorem State.Begun.remainder_put {s u v : State} {i : Instr} (hb : s.Begun u i) (h : u.Quiet v) {neg flip : Bool} {m : Mag}
    {r : ℚ} (hsmall : m.n < 2 ^ 64) (hmore : m.more = false) (hr : r = signOf (neg != flip) * m.val)
    (hrange : r = 0 ∨ inRange r) :
    let w := (v.deliverRem neg flip m).advance i
    (w.reg (s.phys 0)).val = r ∧ (w.reg (s.phys 0)).ordinary = true ∧ (flip = false → (w.reg (s.phys 0)).sign = neg)
      ∧ s.Raised w [] ∧ s.KeepsRegs w [s.phys 0] ∧ s.Popped w (some (s.phys 0)) 0 ∧ w.sw = v.sw := by
  intro w
  subst hr
  obtain ⟨x, hput, hval, hordinary, hsign⟩ := deliverRem_spec (t := v) hsmall hmore hrange
  have hphys : v.phys 0 = s.phys 0 := (h.toSteady.phys 0).trans (hb.phys 0)
  obtain ⟨hreg, hregs, hpopped⟩ := h.toSteady.put pops_id (s.phys 0) x
  have hw : w = (v.putReg (s.phys 0) x).advance i := by rw [← hphys, ← hput]
  have hreg : w.reg (s.phys 0) = x := by rw [hw]; exact hreg
  rw [hreg, hw]
  exact ⟨hval, hordinary, hsign, hb.raised (raised_of_errors (h.raised (raised_nil _)) rfl), hb.keepsRegs hregs,
    hb.popped hpopped, rfl⟩

/-- What is left of `x` when `y` times the signed quotient is taken away. -/
theorem remainder_value {x y : Ext} {n : ℕ} {flip : Bool} {m : Mag} {unit : ℚ}
    (h : x.mag.val - n * (y.mag.val * unit) = signOf flip * m.val) :
    x.val - y.val * (signedInt (x.sign != y.sign) n : ℤ) * unit = signOf (x.sign != flip) * m.val := by
  rw [signedInt_cast, signOf_bne, signOf_bne, Ext.val_eq x, Ext.val_eq y]
  linear_combination signOf x.sign * h - signOf x.sign * y.mag.val * n * unit * signOf_mul_self y.sign

theorem quotient_value (x y : Ext) (unit : ℚ) :
    x.val / y.val / unit = signOf (x.sign != y.sign) * (x.mag.val / (y.mag.val * unit)) := by
  rw [Ext.val_eq x, Ext.val_eq y, signOf_bne, ← signOf_div, div_mul_eq_div_div]
  ring

theorem natAbs_signedInt (neg : Bool) (n : ℕ) : (signedInt neg n).natAbs = n := by cases neg <;> simp [signedInt]

theorem log2_diff {x y : Ext} (hx : classify x = .normal) (hy : classify y = .normal) :
    x.mag.log2 - y.mag.log2 = x.exp.toNat - y.exp.toNat := by
  obtain ⟨-, -, h1, -⟩ := normal_mag hx
  obtain ⟨-, -, h2, -⟩ := normal_mag hy
  rw [h1, h2]
  ring

/-- The division that each of the two instructions completes. -/
theorem remNumbers_near {x y : Ext} {t : State} (nearest : Bool) (hx : classify x = .normal) (hy : classify y = .normal)
    (hd : x.mag.log2 - y.mag.log2 < 64) :
    ∃ n flip m, Divides (if nearest then .nearest else .chop) x.mag y.mag n flip m
      ∧ remNumbers nearest x y t = (t.setQuotient n).deliverRem x.sign flip m := by
  obtain ⟨hxz, -, -, -⟩ := normal_class hx
  obtain ⟨-, hyi, -, -⟩ := normal_class hy
  have hy0 := (normal_mag hy).2.1
  cases nearest with
  | true => exact ⟨_, _, _, divides_nearest hy0 (mag_n_lt x) (mag_n_lt y), by simp [remNumbers, hxz, hyi, hd]⟩
  | false => exact ⟨_, _, _, divides_chop hy0 (mag_n_lt x) (mag_n_lt y), by simp [remNumbers, hxz, hyi, hd]⟩

/-- The step of an incomplete execution. -/
theorem remNumbers_far {x y : Ext} {t : State} {dist : ℕ} (nearest : Bool) (hx : classify x = .normal)
    (hy : classify y = .normal) (hd : x.mag.log2 - y.mag.log2 = dist) (hfar : 64 ≤ dist) :
    ∃ n m, Divides .chop x.mag (y.mag.scale ((dist - (32 + dist % 32) : ℕ) : ℤ)) n false m
      ∧ remNumbers nearest x y t = ((t.setCompare false true false).setC1 false).deliverRem x.sign false m := by
  obtain ⟨hxz, -, -, -⟩ := normal_class hx
  obtain ⟨-, hyi, -, -⟩ := normal_class hy
  have hstep : (dist : ℤ) - remStep dist = ((dist - (32 + dist % 32) : ℕ) : ℤ) := by
    unfold remStep
    omega
  refine ⟨_, _, divides_chop (normal_mag hy).2.1 (mag_n_lt x) (mag_n_lt y), ?_⟩
  rw [← hstep]
  have hnot : ¬ (dist : ℤ) < 64 := by omega
  simp only [remNumbers, hxz, hyi, Bool.or_self, Bool.false_eq_true, if_false, hd, hnot, Int.toNat_natCast]

theorem remainder_runs {q : List Prefix} {s : State} {i : Instr} (hi : i = .fprem q ∨ i = .fprem1 q) (hr : s.Ready true) :
    ∃ nearest, (nearest = false ∧ i = .fprem q ∨ nearest = true ∧ i = .fprem1 q) ∧ RunsTo (exec i s) i s (remainder nearest) := by
  rcases hi with rfl | rfl
  · exact ⟨false, .inl ⟨rfl, rfl⟩, runs_numReg (i := .fprem q) (body := remainder false) rfl rfl hr⟩
  · exact ⟨true, .inr ⟨rfl, rfl⟩, runs_numReg (i := .fprem1 q) (body := remainder true) rfl rfl hr⟩

/-- Settles O43: the quotient is the one that rounds, and what is left fits a register. -/
theorem remainderIsExact : Obligations.RemainderIsExact := by
  intro q s i hi hr h0 h1 hx hy
  obtain ⟨nearest, hwhich, hruns⟩ := remainder_runs hi hr
  obtain ⟨u, hb, hexec, hmem, hcompleted⟩ := hruns.framed (framed_remainder nearest)
  rw [remainder_normal ((hb.stEmpty 0).trans h0) ((hb.stEmpty 1).trans h1) (by rwa [hb.st]) (by rwa [hb.st]), hb.st,
    hb.st] at hexec hmem hcompleted
  refine ⟨fun rc k hrc hexp hk hrange => ?_, fun k hexp => ?_⟩
  · have hd : (s.st 0).mag.log2 - (s.st 1).mag.log2 < 64 := by
      rw [log2_diff hx hy]
      omega
    obtain ⟨n, flip, m, hdiv, hbody⟩ := remNumbers_near (t := u.drawC3210) nearest hx hy hd
    have hmode : (if nearest then Rounding.nearest else .chop) = rc := by
      rcases hwhich with ⟨rfl, rfl⟩ | ⟨rfl, rfl⟩ <;> rcases hrc with ⟨h, rfl⟩ | ⟨h, rfl⟩
      · rfl
      · cases h
      · cases h
      · rfl
    have hquot := hdiv.rounds ((s.st 0).sign != (s.st 1).sign)
    have hq := quotient_value (s.st 0) (s.st 1) 1
    rw [div_one, mul_one] at hq
    rw [hmode, ← hq] at hquot
    have hval := remainder_value (x := s.st 0) (y := s.st 1) (unit := 1) (by rw [mul_one]; exact hdiv.remainder)
    rw [hquot.unique hk, mul_one] at hval
    rw [hbody] at hexec hmem hcompleted
    obtain ⟨hreg, hordinary, -, hraised, hregs, hpopped, hsw⟩ := hb.remainder_put (v := u.drawC3210.setQuotient n)
      ⟨⟨rfl, rfl, rfl⟩, rfl, rfl⟩ hdiv.small hdiv.more hval hrange
    have habs : k.natAbs = n := by rw [← hquot.unique hk, natAbs_signedInt]
    exact ⟨_, hexec, hreg, hordinary, by rw [hsw]; rfl, by rw [hsw, habs]; rfl, by rw [hsw, habs]; rfl,
      by rw [hsw, habs]; rfl, hraised, hregs, hpopped, hmem, hcompleted⟩
  · intro dist unit r hk hrange
    have hd : (s.st 0).mag.log2 - (s.st 1).mag.log2 = (dist : ℤ) := by
      rw [log2_diff hx hy]
      omega
    obtain ⟨n, m, hdiv, hbody⟩ := remNumbers_far (t := u.drawC3210) nearest hx hy hd (by omega)
    have hscale : ((s.st 1).mag.scale ((dist - (32 + dist % 32) : ℕ) : ℤ)).val = (s.st 1).mag.val * unit := by
      rw [mag_scale_val, zpow_natCast]
    have hquot := hdiv.rounds ((s.st 0).sign != (s.st 1).sign)
    have hrem := hdiv.remainder
    rw [hscale, ← quotient_value] at hquot
    rw [hscale] at hrem
    have hval := remainder_value hrem
    rw [hquot.unique hk] at hval
    rw [hbody] at hexec hmem hcompleted
    obtain ⟨hreg, hordinary, hsign, hraised, hregs, hpopped, hsw⟩ := hb.remainder_put
      (v := (u.drawC3210.setCompare false true false).setC1 false) ⟨⟨rfl, rfl, rfl⟩, rfl, rfl⟩ hdiv.small hdiv.more hval hrange
    exact ⟨_, hexec, hreg, hordinary, hsign rfl, by rw [hsw]; rfl, by rw [hsw]; rfl, by rw [hsw]; rfl, by rw [hsw]; rfl,
      hraised, hregs, hpopped, hmem, hcompleted⟩

end Sys2Proof.Machine

/-! # Comparisons (O44, O45, O46)

The fifteen comparisons are `compare2` of ST and another operand, whose pattern and class are found once for registers,
for memory and for FTST's zero. -/

namespace Sys2Proof.Machine

/-! ## The operands (R280) -/

/-- The end of an instruction that pops at most twice. -/
def finish : ℕ → State → State
  | 0 => id
  | 1 => State.pop
  | _ => State.pop2

theorem pops_finish {n : ℕ} (h : n ≤ 2) : Pops (finish n) n := by
  match n, h with
  | 0, _ => exact pops_id
  | 1, _ => exact pops_pop
  | 2, _ => exact pops_pop2

theorem finish_leads {F : Frame} (h : ∀ k, k ∈ F.results) : (n : ℕ) → F.Leads (finish n)
  | 0 => frame_leads_id
  | 1 => frame_leads_pop (List.mem_append_left _ (h _))
  | _ + 2 => frame_leads_pop2 (List.mem_append_left _ (h _)) (List.mem_append_left _ (h _))

/-- The bytes of a memory operand. -/
abbrev operandBytes (s : State) (i : Instr) (m : MemOp) (f : Source) : List Byte := s.readPlace (s.place i.prefixes m) f.size

/-- The other operand, as it is computed with. -/
def comparedExt (s : State) (i : Instr) : Compared → Ext
  | .reg j => s.st j
  | .mem m f => sourceExt f (operandBytes s i m f)
  | .zero => zeroExt false

/-- Whether the other operand is a denormal of its memory format. -/
def comparedDenormal (s : State) (i : Instr) : Compared → Bool
  | .mem m f => sourceDenormal f (operandBytes s i m f)
  | _ => false

/-- The other operand is in a register that is not empty, or can be read. -/
def comparedReadable (s : State) (i : Instr) : Compared → Prop
  | .reg j => s.stEmpty j = false
  | .mem m f => s.Reachable i.prefixes m false f.size
  | .zero => True

/-- The body of a comparison. -/
def comparedBody (s : State) (i : Instr) (pops : ℕ) (quietOk : Bool) : Compared → State → State
  | .reg j => compareReg j quietOk (finish pops)
  | c => compareMem (comparedExt s i c) (comparedDenormal s i c) (finish pops)

theorem framed_comparedBody (s : State) (i : Instr) (pops : ℕ) (quietOk : Bool) (c : Compared) :
    Framed (comparedBody s i pops quietOk c) := framed_of_leads' fun F h _ => by
  cases c with
  | reg => exact compareReg_leads (finish_leads h pops)
  | mem => exact compareMem_leads (finish_leads h pops)
  | zero => exact compareMem_leads (finish_leads h pops)

/-- Each of the fifteen runs its body; only the FUCOM family takes quiet NaNs. -/
theorem comparison_runs {i : Instr} {s : State} {c : Compared} {pops : ℕ} {quietOk : Bool} {r : Result}
    (hexec : exec i s = r) (hi : comparison i = some (c, pops, quietOk)) (hr : s.Ready true)
    (hc : comparedReadable s i c) :
    RunsTo r i s (comparedBody s i pops quietOk c) ∧ pops ≤ 2 ∧ ((∃ j, c = .reg j) ∨ quietOk = false) := by
  unfold exec at hexec
  cases i with
  | fcomM32 | fcomM64 | ficomI16 | ficomI32 | fcompM32 | fcompM64 | ficompI16 | ficompI32 =>
    cases hi
    have h := runs_numLoad hexec rfl hr hc
    exact ⟨h, by norm_num, .inr rfl⟩
  | ftst =>
    cases hi
    have h := runs_numReg hexec rfl hr
    exact ⟨h, by norm_num, .inr rfl⟩
  | fcomSti | fcompSti | fcompp | fucomSti | fucompSti | fucompp =>
    cases hi
    have h := runs_numReg hexec rfl hr
    exact ⟨h, by norm_num, .inl ⟨_, rfl⟩⟩
  | _ => cases hi

/-- The body compares ST with the other operand. -/
theorem comparedBody_eq {s u : State} {i : Instr} (hb : s.Begun u i) {pops : ℕ} {quietOk : Bool} {c : Compared}
    (h0 : s.stEmpty 0 = false) (hc : comparedReadable s i c) (hq : (∃ j, c = .reg j) ∨ quietOk = false) :
    comparedBody s i pops quietOk c u =
      compare2 (s.st 0) (comparedExt s i c) (comparedDenormal s i c) quietOk (finish pops) u := by
  have hu0 : u.stEmpty 0 = false := (hb.stEmpty 0).trans h0
  have mem : ∀ {y d}, quietOk = false → compareMem y d (finish pops) u = compare2 (s.st 0) y d quietOk (finish pops) u :=
    fun hq => by
      rw [compareMem, if_neg (Bool.eq_false_iff.mp hu0), hb.st, hq]
  cases c with
  | reg j =>
    have hj : u.stEmpty j = false := (hb.stEmpty j).trans hc
    simp only [comparedBody, compareReg, hu0, hj, Bool.or_self, Bool.false_eq_true, if_false, hb.st]
    rfl
  | mem m f => exact mem (hq.resolve_left nofun)
  | zero => exact mem (hq.resolve_left nofun)

/-- A comparison that is executed. -/
theorem comparison_executed {i : Instr} {s : State} {c : Compared} {pops : ℕ} {quietOk : Bool}
    (hi : comparison i = some (c, pops, quietOk)) (hr : s.Ready true) (h0 : s.stEmpty 0 = false)
    (hc : comparedReadable s i c) :
    ∃ u fin, s.Begun u i ∧ Pops fin pops ∧
      let w := (compare2 (s.st 0) (comparedExt s i c) (comparedDenormal s i c) quietOk fin u).advance i
      exec i s = .next w ∧ s.KeepsMemory w [] ∧ s.CompletedNumeric w i := by
  obtain ⟨hruns, hpops, hq⟩ := comparison_runs rfl hi hr hc
  obtain ⟨u, hb, hexec, hmem, hcompleted⟩ := hruns.framed (framed_comparedBody s i pops quietOk c)
  rw [comparedBody_eq hb h0 hc hq] at hexec hmem hcompleted
  exact ⟨u, _, hb, pops_finish hpops, hexec, hmem, hcompleted⟩

/-! ## Memory operands that are infinities or NaNs (R57, R58, R145, R146) -/

/-- An infinity or a NaN in the format, as a register has it (R123). -/
theorem toExt_special {f : Fmt} {w : ℕ} (hf : FormatSizes f) (hfin : formatFinite f.expBits f.frac w = false) :
    (f.toExt w).sign = signField f.expBits f.frac w
      ∧ classify (f.toExt w) = if fracField f.frac w = 0 then .infinity else if w.testBit (f.frac - 1) then .qnan else .snan := by
  obtain ⟨hf1, hf2⟩ := hf.frac
  obtain ⟨he1, he2⟩ := hf.exp
  have hexp : expField f.expBits f.frac w = 2 ^ f.expBits - 1 := by simpa [formatFinite] using hfin
  have hne : expField f.expBits f.frac w ≠ 0 := by
    have : 2 ^ 1 < 2 ^ f.expBits := Nat.pow_lt_pow_right (by norm_num) (by omega)
    omega
  have hmlt : fracField f.frac w < 2 ^ f.frac := Nat.mod_lt _ (by positivity)
  have htoExt : f.toExt w = ⟨signField f.expBits f.frac w, expMax,
      BitVec.ofNat 64 ((2 ^ f.frac + fracField f.frac w) <<< (63 - f.frac))⟩ :=
    (if_neg hne).trans (if_pos hexp)
  have hbit : w.testBit (f.frac - 1) = (fracField f.frac w).testBit (f.frac - 1) := by
    rw [fracField, Nat.testBit_mod_two_pow, decide_eq_true (by omega), Bool.true_and]
  rw [htoExt, hbit]
  refine ⟨rfl, ?_⟩
  generalize fracField f.frac w = m at *
  obtain ⟨g, hg⟩ : ∃ g, f.frac = g + 1 := ⟨f.frac - 1, by omega⟩
  obtain ⟨c, hc⟩ : ∃ c, 63 = f.frac + c := ⟨63 - f.frac, by omega⟩
  have hsub : 63 - f.frac = c := by omega
  have hpow : 2 ^ f.frac * 2 ^ c = 2 ^ 63 := by rw [← pow_add, ← hc]
  have hcpos : 0 < 2 ^ c := by positivity
  rw [hsub, Nat.shiftLeft_eq]
  have hlt : m * 2 ^ c < 2 ^ 63 := by
    rw [← hpow]
    exact Nat.mul_lt_mul_of_pos_right hmlt hcpos
  have hsig : (BitVec.ofNat 64 ((2 ^ f.frac + m) * 2 ^ c)).toNat = 2 ^ 63 + m * 2 ^ c := by
    rw [BitVec.toNat_ofNat, add_mul, hpow]
    omega
  have h63 : (BitVec.ofNat 64 ((2 ^ f.frac + m) * 2 ^ c)).getLsbD 63 = true := (getLsbD_63 _).mpr (by omega)
  have hone : BitVec.ofNat 64 ((2 ^ f.frac + m) * 2 ^ c) = sigOne ↔ m = 0 := by
    rw [← BitVec.toNat_inj, hsig, show sigOne.toNat = 2 ^ 63 from rfl]
    constructor
    · intro h
      by_contra h0
      have : 1 ≤ m := Nat.pos_of_ne_zero h0
      nlinarith
    · rintro rfl
      simp
  have h62 : (BitVec.ofNat 64 ((2 ^ f.frac + m) * 2 ^ c)).getLsbD 62 = m.testBit (f.frac - 1) := by
    have h62 : 62 = c + (f.frac - 1) := by omega
    rw [BitVec.getLsbD, hsig, Nat.testBit_eq_decide_div_mod_eq, Nat.testBit_eq_decide_div_mod_eq]
    congr 1
    have hsplit : 2 ^ 63 + m * 2 ^ c = (2 ^ f.frac + m) * 2 ^ c := by rw [add_mul, hpow]
    rw [h62, hsplit, pow_add, ← Nat.div_div_eq_div_mul, Nat.mul_div_cancel _ hcpos, hg, Nat.add_sub_cancel, pow_succ,
      mul_comm (2 ^ g) 2, add_comm (2 * 2 ^ g), Nat.add_mul_div_right _ _ (by positivity), Nat.add_mod_right]
  rw [classify, if_neg (show expMax ≠ 0 by decide), if_pos h63, if_pos rfl]
  simp only [hone, h62]

/-- The class of a memory operand as the statements tell it. -/
theorem sourceExt_class {f : Source} {bs : List Byte} (hlen : bs.length = f.size) :
    (sourceExt f bs).isInf = f.isInf (leNat bs) ∧ (sourceExt f bs).isNan = f.isNan (leNat bs)
      ∧ (sourceExt f bs).isSnan = f.isSnan (leNat bs) ∧ (sourceExt f bs).isUnsupported = false
      ∧ (sourceExt f bs).isDenorm = false := by
  have ordinary : ∀ {x : Ext}, x.ordinary = true →
      x.isInf = false ∧ x.isNan = false ∧ x.isSnan = false ∧ x.isUnsupported = false ∧ x.isDenorm = false := fun {x} h => by
    unfold Ext.ordinary at h
    unfold Ext.isInf Ext.isNan Ext.isSnan Ext.isUnsupported Ext.isDenorm
    revert h
    cases classify x <;> decide
  have real : ∀ {g : Fmt}, FormatSizes g → ∀ w,
      (g.toExt w).isInf = (!formatFinite g.expBits g.frac w && fracField g.frac w == 0)
        ∧ (g.toExt w).isNan = (!formatFinite g.expBits g.frac w && fracField g.frac w != 0)
        ∧ (g.toExt w).isSnan = (!formatFinite g.expBits g.frac w && fracField g.frac w != 0 && !w.testBit (g.frac - 1))
        ∧ (g.toExt w).isUnsupported = false ∧ (g.toExt w).isDenorm = false := fun {g} hg w => by
    cases hfin : formatFinite g.expBits g.frac w with
    | true =>
      obtain ⟨ho, -, -⟩ := toExt_finite hg hfin
      simpa using ordinary ho
    | false =>
      obtain ⟨-, hclass⟩ := toExt_special hg hfin
      unfold Ext.isInf Ext.isNan Ext.isSnan Ext.isUnsupported Ext.isDenorm
      rw [hclass]
      by_cases hm : fracField g.frac w = 0
      · simp [hm]
      · cases hbit : w.testBit (g.frac - 1) <;> simp [hm]
  have int : ∀ i : ℤ, i.natAbs ≤ 2 ^ 64 → _ := fun i hi => ordinary (extOfInt_spec hi).1
  cases f with
  | single => exact real formatSizes_single (leNat bs)
  | double => exact real formatSizes_double (leNat bs)
  | int16 =>
    have h := int _ (toInt_natAbs_le (by norm_num) (BitVec.ofNat (8 * 2) (leNat bs)))
    rw [← intOfBytes_eq (n := 2) hlen] at h
    exact h
  | int32 =>
    have h := int _ (toInt_natAbs_le (by norm_num) (BitVec.ofNat (8 * 4) (leNat bs)))
    rw [← intOfBytes_eq (n := 4) hlen] at h
    exact h

/-! ## The affine line (R145, R280 (b)) -/

/-- The place on the affine line of a number up to `b`, at which and at whose negative the infinities stand. -/
def affinePlace (b v : ℚ) : WithBot (WithTop ℚ) :=
  if v = b then ((⊤ : WithTop ℚ) : WithBot (WithTop ℚ))
  else if v = -b then ⊥ else ((v : WithTop ℚ) : WithBot (WithTop ℚ))

theorem affinePlace_lt {b v w : ℚ} (hv : -b ≤ v) (hw : w ≤ b) (h : v < w) : affinePlace b v < affinePlace b w := by
  unfold affinePlace
  rw [if_neg (h.trans_le hw).ne, if_neg (c := w = -b) (hv.trans_lt h).ne']
  split
  · split
    · exact WithBot.bot_lt_coe _
    · exact WithBot.bot_lt_coe _
  · split
    · exact WithBot.coe_lt_coe.mpr (WithTop.coe_lt_top _)
    · exact WithBot.coe_lt_coe.mpr (WithTop.coe_lt_coe.mpr h)

theorem affinePlace_order {b v w : ℚ} (hv : |v| ≤ b) (hw : |w| ≤ b) :
    (affinePlace b v = affinePlace b w ↔ v = w) ∧ (affinePlace b v < affinePlace b w ↔ v < w) := by
  obtain ⟨hv1, hv2⟩ := abs_le.mp hv
  obtain ⟨hw1, hw2⟩ := abs_le.mp hw
  rcases lt_trichotomy v w with h | h | h
  · have := affinePlace_lt hv1 hw2 h
    exact ⟨iff_of_false this.ne h.ne, iff_of_true this h⟩
  · rw [h]
    simp
  · have := affinePlace_lt hw1 hv2 h
    exact ⟨iff_of_false this.ne' h.ne', iff_of_false this.not_gt h.not_gt⟩

/-- A pattern with a place on the affine line: its magnitude is below `2^16384`, which is what an infinity's fields read
as. -/
structure Ordered (x : Ext) : Prop where
  number : Ext.isNumber x = true
  denormal : x.isDenorm = false
  zero : x.isZero = true ↔ x.val = 0
  affine : x.affine = affinePlace (2 ^ (16384 : ℤ)) x.val
  bound : |x.val| ≤ 2 ^ (16384 : ℤ)

theorem infinity_fields {x : Ext} (h : x.isInf = true) : x.exp = expMax ∧ x.sig = sigOne := by
  unfold Ext.isInf classify at h
  split at h
  · split at h
    · cases h
    · split at h <;> cases h
  · split at h
    · split at h
      next hexp =>
        split at h
        next hsig => exact ⟨hexp, hsig⟩
        · split at h <;> cases h
      · cases h
    · cases h

theorem val_of_infinity {x : Ext} (h : x.isInf = true) : x.val = signOf x.sign * 2 ^ (16384 : ℤ) := by
  obtain ⟨hexp, hsig⟩ := infinity_fields h
  unfold Ext.val
  rw [if_neg (by rw [hexp]; decide), hexp, hsig, show expMax.toNat = 32767 from rfl, show sigOne.toNat = 2 ^ 63 from rfl,
    Nat.cast_pow, Nat.cast_two, div_self (by positivity), mul_one, show ((32767 : ℕ) : ℤ) - 16383 = 16384 by norm_num]

theorem abs_val_lt_of_normal {x : Ext} (h : classify x = .normal) : |x.val| < 2 ^ (16384 : ℤ) := by
  obtain ⟨-, hn, -, -, hhi⟩ := normal_mag h
  rw [Ext.abs_val]
  exact (Mag.val_log2_bounds hn).2.trans_le (zpow_le_zpow_right₀ one_le_two (by omega))

theorem ordered_of_ordinary {x : Ext} (h : x.ordinary = true) : Ordered x := by
  obtain ⟨hi, hd, hn⟩ := ordinary_class h
  have hpos : (0 : ℚ) < 2 ^ (16384 : ℤ) := by positivity
  have hlt : |x.val| < 2 ^ (16384 : ℤ) := by
    rcases ordinary_cases h with hz | hnormal
    · rw [Ext.val_of_zero hz, abs_zero]
      exact hpos
    · exact abs_val_lt_of_normal hnormal
  obtain ⟨h1, h2⟩ := abs_lt.mp hlt
  refine ⟨hn, hd, ⟨Ext.val_of_zero, fun hv => by_contra fun hz => ?_⟩, ?_, hlt.le⟩
  · rcases ordinary_cases h with hz' | hnormal
    · exact hz hz'
    · exact Ext.val_ne_zero hnormal hv
  · rw [affinePlace, if_neg h2.ne, if_neg h1.ne', Ext.affine, hi]
    rfl

theorem ordered_of_infinity {x : Ext} (h : x.isInf = true) : Ordered x := by
  have hv := val_of_infinity h
  have hclass : Ext.isNumber x = true ∧ x.isDenorm = false ∧ x.isZero = false := by
    refine ⟨isNumber_of_class (.inl h), ?_⟩
    unfold Ext.isInf at h
    unfold Ext.isDenorm Ext.isZero
    revert h
    cases classify x <;> decide
  refine ⟨hclass.1, hclass.2.1, ?_, ?_, ?_⟩
  · rw [hclass.2.2, hv]
    simp [signOf_ne_zero]
  · rw [Ext.affine, h, if_pos rfl, hv]
    have hpos : (0 : ℚ) < 2 ^ (16384 : ℤ) := by positivity
    generalize (2 : ℚ) ^ (16384 : ℤ) = b at hpos ⊢
    cases x.sign
    · simp [signOf, affinePlace]
    · have hne : -b ≠ b := by linarith
      simp [signOf, affinePlace, hne]
  · rw [hv, abs_mul, abs_signOf, one_mul, abs_of_nonneg (by positivity)]

/-- The order on the affine line is the order of the values. -/
theorem affine_order {x y : Ext} (hx : Ordered x) (hy : Ordered y) :
    (x.affine = y.affine ↔ x.val = y.val) ∧ (x.affine < y.affine ↔ x.val < y.val) := by
  rw [hx.affine, hy.affine]
  exact affinePlace_order hx.bound hy.bound

/-- `orderOf` is the order of the values. -/
theorem orderOf_eq {x y : Ext} (hx : Ordered x) (hy : Ordered y) : orderOf x y = compare x.val y.val := by
  have hzx := hx.zero
  have hzy := hy.zero
  have positive : ∀ {z : Ext}, ¬ z.isZero = true → (z.isZero = true ↔ z.val = 0) → 0 < z.mag.val := fun {z} h hz => by
    rw [← Ext.abs_val]
    exact abs_pos.mpr (mt hz.mpr h)
  have neg : ∀ {z : Ext}, z.sign = true → z.val = -z.mag.val := fun {z} h => by rw [Ext.val_eq, h]; simp [signOf]
  have pos : ∀ {z : Ext}, z.sign = false → z.val = z.mag.val := fun {z} h => by rw [Ext.val_eq, h]; simp [signOf]
  have signs : ∀ {z : Ext}, ¬ z.isZero = true → (z.isZero = true ↔ z.val = 0) →
      (if z.sign then z.val < 0 else 0 < z.val) := fun {z} h hz => by
    have hm := positive h hz
    split
    next hs => rw [neg hs]; linarith
    next hs => rw [pos (by simpa using hs)]; exact hm
  unfold orderOf
  split
  next h =>
    rw [Bool.and_eq_true, hzx, hzy] at h
    rw [h.1, h.2, eq_comm, compare_eq_iff_eq]
  next hboth =>
    split
    next hxz =>
      have hyz : ¬ y.isZero = true := fun h => hboth (by rw [hxz, h]; rfl)
      have hs := signs hyz hzy
      rw [hzx.mp hxz]
      split at hs
      next h => rw [if_pos h, eq_comm, compare_gt_iff_gt]; exact hs
      next h => rw [if_neg h, eq_comm, compare_lt_iff_lt]; exact hs
    next hxz =>
      have hsx := signs hxz hzx
      split
      next hyz =>
        rw [hzy.mp hyz]
        split at hsx
        next h => rw [if_pos h, eq_comm, compare_lt_iff_lt]; exact hsx
        next h => rw [if_neg h, eq_comm, compare_gt_iff_gt]; exact hsx
      next hyz =>
        have hsy := signs hyz hzy
        cases hx1 : x.sign <;> cases hy1 : y.sign <;>
          simp only [hx1, hy1, Bool.false_eq_true, if_true, if_false, bne_self_eq_false, Bool.bne_false, Bool.bne_true,
            Bool.not_false] at hsx hsy ⊢
        · rw [mag_cmp, pos hx1, pos hy1]
        · exact (compare_gt_iff_gt.mpr (hsy.trans hsx)).symm
        · exact (compare_lt_iff_lt.mpr (hsx.trans hsy)).symm
        · rw [mag_cmp, neg hx1, neg hy1]
          rcases lt_trichotomy y.mag.val x.mag.val with h | h | h
          · rw [compare_lt_iff_lt.mpr h, eq_comm, compare_lt_iff_lt]
            linarith
          · rw [h, compare_eq_iff_eq.mpr rfl, eq_comm, compare_eq_iff_eq]
          · rw [compare_gt_iff_gt.mpr h, eq_comm, compare_gt_iff_gt]
            linarith

/-! ## The outcomes (R280) -/

theorem setOrder_spec (s : State) (o : Ordering) :
    ((s.setOrder o).sw.c3 = true ↔ o = .eq) ∧ ((s.setOrder o).sw.c0 = true ↔ o = .lt) ∧ (s.setOrder o).sw.c2 = false
      ∧ (s.setOrder o).sw.c1 = s.sw.c1 ∧ s.Quiet (s.setOrder o) := by
  cases o <;> exact ⟨by simp [State.setOrder, State.setCompare], by simp [State.setOrder, State.setCompare], rfl, rfl,
    ⟨⟨rfl, rfl, rfl⟩, rfl, rfl⟩⟩

theorem compare2_ordered {x y : Ext} {quietOk : Bool} {fin : State → State} {s : State} (hx : Ordered x) (hy : Ordered y) :
    compare2 x y false quietOk fin s = fin ((s.setC1 false).setOrder (compare x.val y.val)) := by
  have hx1 := isSnan_of_isNumber hx.number
  have hy1 := isSnan_of_isNumber hy.number
  have hxn := hx.number
  have hyn := hy.number
  simp only [Ext.isNumber, Bool.and_eq_true, Bool.not_eq_true'] at hxn hyn
  simp only [compare2, compareInvalid, hx1, hy1, hxn.1, hxn.2, hyn.1, hyn.2, hx.denormal, hy.denormal, Bool.or_self,
    Bool.and_false, Bool.false_eq_true, if_false, orderOf_eq hx hy]

/-- A comparison that ends with its pops: the condition code is as it was set. -/
theorem State.Begun.popped_quiet {s u t : State} {i : Instr} {fin : State → State} {n : ℕ} (hb : s.Begun u i)
    (h : u.Quiet t) (hf : Pops fin n) :
    let w := (fin t).advance i
    s.Raised w [] ∧ s.KeepsRegs w [] ∧ s.Popped w none n ∧ w.sw.c3 = t.sw.c3 ∧ w.sw.c2 = t.sw.c2 ∧ w.sw.c1 = t.sw.c1
      ∧ w.sw.c0 = t.sw.c0 := by
  intro w
  obtain ⟨hregs, hpopped⟩ := h.toSteady.pop hf
  have hsw : w.sw = { t.sw with top := t.sw.top + Fin.ofNat 8 n } := (hf t).2.1
  rw [hsw]
  exact ⟨hb.raised (raised_of_errors (h.raised (raised_nil _)) (hf.errors t)), hb.keepsRegs hregs, hb.popped hpopped, rfl, rfl,
    rfl, rfl⟩

theorem sourceExt_affine_ordinary {f : Source} {bs : List Byte} (hlen : bs.length = f.size)
    (h : f.ordinary (leNat bs) = true) :
    Ordered (sourceExt f bs) ∧ sourceDenormal f bs = false ∧ f.affine (leNat bs) = (sourceExt f bs).affine := by
  obtain ⟨ho, hv, hden⟩ := sourceExt_ordinary hlen h
  have hinf : (sourceExt f bs).isInf = false := (ordinary_class ho).1
  have hsource : f.isInf (leNat bs) = false := (sourceExt_class hlen).1.symm.trans hinf
  refine ⟨ordered_of_ordinary ho, hden, ?_⟩
  rw [Ext.affine, hinf, hv]
  cases f
  · exact if_neg (Bool.eq_false_iff.mp hsource)
  · exact if_neg (Bool.eq_false_iff.mp hsource)
  · rfl
  · rfl

theorem sourceExt_affine_infinity {f : Source} {bs : List Byte} (hlen : bs.length = f.size)
    (h : f.isInf (leNat bs) = true) :
    Ordered (sourceExt f bs) ∧ sourceDenormal f bs = false ∧ f.affine (leNat bs) = (sourceExt f bs).affine := by
  have hinf : (sourceExt f bs).isInf = true := (sourceExt_class hlen).1.trans h
  have special : ∀ {g : Fmt}, FormatSizes g → (!formatFinite g.expBits g.frac (leNat bs) && fracField g.frac (leNat bs) == 0) = true →
      (g.toExt (leNat bs)).sign = signField g.expBits g.frac (leNat bs) ∧ g.isDenorm (leNat bs) = false := fun {g} hg hw => by
    simp only [Bool.and_eq_true, Bool.not_eq_true', beq_iff_eq] at hw
    refine ⟨(toExt_special hg hw.1).1, ?_⟩
    show (_ && fracField g.frac (leNat bs) != 0) = false
    rw [hw.2]
    exact Bool.and_false _
  refine ⟨ordered_of_infinity hinf, ?_⟩
  rw [Ext.affine, hinf, if_pos rfl]
  cases f with
  | single =>
    obtain ⟨hs, hd⟩ := special formatSizes_single h
    exact ⟨hd, (if_pos h).trans (by rw [show sourceExt .single bs = Fmt.single.toExt (leNat bs) from rfl, hs]; rfl)⟩
  | double =>
    obtain ⟨hs, hd⟩ := special formatSizes_double h
    exact ⟨hd, (if_pos h).trans (by rw [show sourceExt .double bs = Fmt.double.toExt (leNat bs) from rfl, hs]; rfl)⟩
  | int16 => cases h
  | int32 => cases h

/-- The other operand's place on the affine line. -/
theorem comparedExt_ordered {s : State} {i : Instr} {c : Compared} {y : WithBot (WithTop ℚ)} (h : comparedAt s i c y) :
    comparedReadable s i c ∧ Ordered (comparedExt s i c) ∧ comparedDenormal s i c = false
      ∧ y = (comparedExt s i c).affine := by
  cases c with
  | reg j =>
    obtain ⟨he, hclass, hy⟩ := h
    exact ⟨he, hclass.elim ordered_of_ordinary ordered_of_infinity, rfl, hy⟩
  | zero =>
    have hz : (zeroExt false).affine = (((0 : ℚ) : WithTop ℚ) : WithBot (WithTop ℚ)) := by
      rw [Ext.affine, show (zeroExt false).isInf = false by decide, val_zeroExt]
      rfl
    exact ⟨trivial, ordered_of_ordinary (ordinary_zeroExt false), rfl, h.trans hz.symm⟩
  | mem m f =>
    obtain ⟨hreach, hclass, hy⟩ := h
    have hlen : (operandBytes s i m f).length = f.size := readPlace_length ..
    have hy : y = f.affine (leNat (operandBytes s i m f)) := hy
    have hclass : f.ordinary (leNat (operandBytes s i m f)) = true ∨ f.isInf (leNat (operandBytes s i m f)) = true := hclass
    refine ⟨hreach, ?_⟩
    show Ordered (sourceExt f _) ∧ sourceDenormal f _ = false ∧ y = (sourceExt f _).affine
    generalize operandBytes s i m f = bs at *
    rw [hy]
    rcases hclass with ho | hinf
    · obtain ⟨hord, hden, haffine⟩ := sourceExt_affine_ordinary hlen ho
      exact ⟨hord, hden, haffine⟩
    · obtain ⟨hord, hden, haffine⟩ := sourceExt_affine_infinity hlen hinf
      exact ⟨hord, hden, haffine⟩

/-- Settles O44: the values order the operands as the affine line does. -/
theorem comparisonsOrderTheirOperands : Obligations.ComparisonsOrderTheirOperands := by
  intro i s c pops quietOk y hi hr h0 hx hy
  obtain ⟨hread, hord, hden, rfl⟩ := comparedExt_ordered hy
  have hxord : Ordered (s.st 0) := hx.elim ordered_of_ordinary ordered_of_infinity
  obtain ⟨u, fin, hb, hf, hexec, hmem, hcompleted⟩ := comparison_executed hi hr h0 hread
  rw [hden, compare2_ordered hxord hord] at hexec hmem hcompleted
  obtain ⟨heq, hlt⟩ := affine_order hxord hord
  obtain ⟨h3, hc0, h2, h1, -⟩ := setOrder_spec (u.setC1 false) (compare (s.st 0).val (comparedExt s i c).val)
  have hq : u.Quiet ((u.setC1 false).setOrder (compare (s.st 0).val (comparedExt s i c).val)) := by
    cases compare (s.st 0).val (comparedExt s i c).val <;> exact ⟨⟨rfl, rfl, rfl⟩, rfl, rfl⟩
  obtain ⟨hraised, hregs, hpopped, e3, e2, e1, e0⟩ := hb.popped_quiet hq hf
  refine ⟨_, hexec, ?_, ?_, e2.trans h2, e1.trans h1, hraised, hregs, hpopped, hmem, hcompleted⟩
  · rw [e3, h3, heq]
    exact compare_eq_iff_eq
  · rw [e0, hc0, hlt]
    exact compare_lt_iff_lt

/-! ## Unordered operands -/

theorem comparedExt_nan {s : State} {i : Instr} {c : Compared} {nan bad : Bool} (h : comparedNan s i c nan bad) :
    comparedReadable s i c ∧ nan = ((comparedExt s i c).isNan || (comparedExt s i c).isUnsupported)
      ∧ bad = ((comparedExt s i c).isSnan || (comparedExt s i c).isUnsupported) := by
  cases c with
  | reg j => exact h
  | zero =>
    obtain ⟨rfl, rfl⟩ := h
    refine ⟨trivial, ?_, ?_⟩
    · show false = ((zeroExt false).isNan || (zeroExt false).isUnsupported)
      decide
    · show false = ((zeroExt false).isSnan || (zeroExt false).isUnsupported)
      decide
  | mem m f =>
    obtain ⟨hreach, hnan, hbad⟩ := h
    obtain ⟨-, h1, h2, h3, -⟩ := sourceExt_class (f := f) (bs := operandBytes s i m f) (readPlace_length ..)
    refine ⟨hreach, hnan.trans ?_, hbad.trans ?_⟩
    · show _ = ((sourceExt f _).isNan || (sourceExt f _).isUnsupported)
      rw [h1, h3, Bool.or_false]
    · show _ = ((sourceExt f _).isSnan || (sourceExt f _).isUnsupported)
      rw [h2, h3, Bool.or_false]

/-- With a NaN or an unsupported operand the comparison ends unordered, by the invalid response or without. -/
theorem compare2_unordered {x y : Ext} {memden quietOk : Bool} {fin : State → State} {s : State}
    (h : x.isNan = true ∨ x.isUnsupported = true ∨ (y.isNan || y.isUnsupported) = true) :
    compare2 x y memden quietOk fin s =
      if (!quietOk || x.isSnan || x.isUnsupported || (y.isSnan || y.isUnsupported)) then
        (s.setC1 false).unordered.respond .ie fin
      else fin (s.setC1 false).unordered := by
  have hinvalid : compareInvalid x y quietOk
      = (!quietOk || x.isSnan || x.isUnsupported || (y.isSnan || y.isUnsupported)) := by
    unfold compareInvalid
    revert h
    cases x.isNan <;> cases x.isUnsupported <;> cases y.isNan <;> cases y.isUnsupported <;> cases quietOk <;> simp
  unfold compare2
  simp only [hinvalid]
  split
  · rfl
  next hnot =>
    have hnan : (x.isNan || y.isNan) = true := by
      simp only [Bool.or_eq_true, not_or, Bool.not_eq_true] at h hnot ⊢
      obtain ⟨⟨-, hx⟩, -, hy⟩ := hnot
      rw [hx, hy] at h
      simpa using h
    rw [if_pos hnan]

/-- Settles O45. -/
theorem comparisonsWithANanAreUnordered : Obligations.ComparisonsWithANanAreUnordered := by
  intro i s c pops quietOk nan bad hi hr h0 hc hnan invalid
  obtain ⟨hread, hnan', hbad⟩ := comparedExt_nan hc
  obtain ⟨u, fin, hb, hf, hexec, hmem, hcompleted⟩ := comparison_executed hi hr h0 hread
  have hbody := compare2_unordered (x := s.st 0) (y := comparedExt s i c) (memden := comparedDenormal s i c)
    (quietOk := quietOk) (fin := fin) (s := u) (by rwa [← hnan'])
  rw [← hbad] at hbody
  have hq : u.Quiet (u.setC1 false).unordered := ⟨⟨rfl, rfl, rfl⟩, rfl, rfl⟩
  cases hinv : invalid with
  | false =>
    rw [hbody, if_neg (Bool.eq_false_iff.mp hinv)] at hexec hmem hcompleted
    obtain ⟨hraised, hregs, hpopped, e3, e2, e1, e0⟩ := hb.popped_quiet hq hf
    exact ⟨_, hexec, e3, e2, e0, e1, hraised, hregs, hpopped, hmem, hcompleted⟩
  | true =>
    rw [hbody, if_pos hinv] at hexec hmem hcompleted
    have hraise : s.Raised ((u.setC1 false).unordered.raise .ie) [.ie] := hb.raised (hq.raised (raise_raised _ .ie))
    have hsteady := hq.toSteady.raise .ie
    rcases respond_cases (u.setC1 false).unordered .ie fin with ⟨hm, hw⟩ | ⟨hm, hw⟩
    · rw [hw] at hexec hmem hcompleted
      have hm : masked s.cw .ie = true := hb.cw ▸ hm
      obtain ⟨hregs, hpopped⟩ := hsteady.pop hf
      have hsw := (hf ((u.setC1 false).unordered.raise .ie)).2.1
      refine ⟨_, hexec, ?_, ?_, ?_, ?_, raised_of_errors hraise (hf.errors _), hb.keepsRegs hregs, ?_, hmem, hcompleted⟩
      · exact congrArg StatusWord.c3 hsw
      · exact congrArg StatusWord.c2 hsw
      · exact congrArg StatusWord.c0 hsw
      · exact congrArg StatusWord.c1 hsw
      · rw [hm]
        exact hb.popped hpopped
    · rw [hw] at hexec hmem hcompleted
      have hm : masked s.cw .ie = false := hb.cw ▸ hm
      obtain ⟨hregs, -, hpopped⟩ := hsteady.left
      refine ⟨_, hexec, rfl, rfl, rfl, rfl, hraise, hb.keepsRegs hregs, ?_, hmem, hcompleted⟩
      rw [hm]
      exact hb.popped hpopped

/-! ## FXAM (R289) -/

theorem framed_examine : Framed examine := framed_of_leads' fun _ _ _ => examine_leads

/-- What FXAM reports in C3, C2 and C0. -/
def examined (s : State) : Bool × Bool × Bool :=
  if s.stEmpty 0 then (true, false, true)
  else
    match classify (s.st 0) with
    | .unsupported => (false, false, false)
    | .qnan => (false, false, true)
    | .snan => (false, false, true)
    | .normal => (false, true, false)
    | .infinity => (false, true, true)
    | .zero => (true, false, false)
    | .denormal => (true, true, false)
    | .pseudodenormal => (true, true, false)

theorem examine_eq (s : State) :
    examine s = (s.setC1 (s.st 0).sign).setCompare (examined s).1 (examined s).2.1 (examined s).2.2 := by
  simp only [examine, examined]
  cases s.stEmpty 0
  · cases classify (s.st 0) <;> rfl
  · rfl

/-- Settles O46. -/
theorem fxamReportsTheClass : Obligations.FxamReportsTheClass := by
  intro q s
  refine ⟨by decide, escGates_of_numReg (body := examine) rfl, fun hr => ?_⟩
  obtain ⟨u, hb, hexec, hmem, hcompleted⟩ := (runs_numReg (i := .fxam q) (body := examine) rfl rfl hr).framed framed_examine
  have hexamined : examined u = examined s := by rw [examined, hb.st, hb.stEmpty]; rfl
  rw [examine_eq, hexamined, hb.st] at hexec hmem hcompleted
  have hq : u.Quiet ((u.setC1 (s.st 0).sign).setCompare (examined s).1 (examined s).2.1 (examined s).2.2) :=
    ⟨⟨rfl, rfl, rfl⟩, rfl, rfl⟩
  obtain ⟨hraised, hregs, hpopped, -⟩ := hb.popped_quiet hq pops_id
  exact ⟨_, hexec, rfl, rfl, hraised, hregs, hpopped, hmem, hcompleted⟩

end Sys2Proof.Machine

/-! # The formats in memory as destinations (R135, R136)

`Fmt.encode` writes a rounded value of the format's normal range; what the fields of the bits say is its value. -/

namespace Sys2Proof.Machine

section Assemble

variable {f : Fmt} {s : Bool} {e m : ℕ} (he : e < 2 ^ f.expBits) (hm : m < 2 ^ f.frac)
include he hm

theorem assemble_fields : expField f.expBits f.frac (f.assemble s e m) = e ∧ fracField f.frac (f.assemble s e m) = m
    ∧ signField f.expBits f.frac (f.assemble s e m) = s := by
  have hpos : 0 < 2 ^ f.frac := by positivity
  have hsplit : f.assemble s e m = m + 2 ^ f.frac * (e + 2 ^ f.expBits * s.toNat) := by
    unfold Fmt.assemble
    rw [pow_add]
    ring
  have hdiv : f.assemble s e m / 2 ^ f.frac = e + 2 ^ f.expBits * s.toNat := by
    rw [hsplit, Nat.add_mul_div_left _ _ hpos, Nat.div_eq_of_lt hm, zero_add]
  refine ⟨?_, ?_, ?_⟩
  · rw [expField, hdiv, Nat.add_mul_mod_self_left, Nat.mod_eq_of_lt he]
  · rw [fracField, hsplit, Nat.add_mul_mod_self_left, Nat.mod_eq_of_lt hm]
  · rw [signField, add_comm f.expBits, pow_add, ← Nat.div_div_eq_div_mul, hdiv,
      Nat.add_mul_div_left _ _ (by positivity), Nat.div_eq_of_lt he, zero_add]
    cases s <;> rfl

theorem assemble_lt : f.assemble s e m < 2 ^ (1 + f.expBits + f.frac) := by
  have hs : s.toNat ≤ 1 := Bool.toNat_le s
  have h1 : (e + 1) * 2 ^ f.frac ≤ 2 ^ f.expBits * 2 ^ f.frac := Nat.mul_le_mul_right _ he
  have h2 : s.toNat * 2 ^ (f.expBits + f.frac) ≤ 1 * 2 ^ (f.expBits + f.frac) := Nat.mul_le_mul_right _ hs
  have h3 : 2 ^ (1 + f.expBits + f.frac) = 2 * 2 ^ (f.expBits + f.frac) := by rw [add_assoc, pow_add, pow_one]
  unfold Fmt.assemble
  rw [h3]
  rw [add_mul, one_mul, ← pow_add] at h1
  omega

end Assemble

/-- Zero in a format. -/
theorem assemble_zero {f : Fmt} (hf : FormatSizes f) (s : Bool) :
    formatFinite f.expBits f.frac (f.assemble s 0 0) = true ∧ signField f.expBits f.frac (f.assemble s 0 0) = s
      ∧ formatVal f.expBits f.frac (f.assemble s 0 0) = 0 ∧ f.assemble s 0 0 < 2 ^ (1 + f.expBits + f.frac) := by
  have hpos : ∀ n : ℕ, 0 < 2 ^ n := fun n => by positivity
  obtain ⟨he, hm, hs⟩ := assemble_fields (f := f) (s := s) (hpos f.expBits) (hpos f.frac)
  have hne : 0 ≠ 2 ^ f.expBits - 1 := by
    have : 2 ^ 1 < 2 ^ f.expBits := Nat.pow_lt_pow_right (by norm_num) hf.exp.1
    omega
  refine ⟨by rw [formatFinite, he]; simpa using hne, hs, ?_, assemble_lt (hpos _) (hpos _)⟩
  rw [formatVal, he, hm]
  simp

/-- A rounded value of the normal range (R135). -/
theorem encode_normal {f : Fmt} (hf : FormatSizes f) {s : Bool} {r : Rounded} (hlo : 2 ^ f.frac ≤ r.n)
    (hhi : r.n ≤ 2 ^ (f.frac + 1)) (hmin : f.emin ≤ r.log2) (hmax : r.log2 ≤ f.emax) :
    formatFinite f.expBits f.frac (f.encode s r) = true ∧ signField f.expBits f.frac (f.encode s r) = s
      ∧ formatVal f.expBits f.frac (f.encode s r) = r.val s ∧ f.encode s r < 2 ^ (1 + f.expBits + f.frac) := by
  have hemin := hf.emin
  have hpow : (2 : ℤ) ^ f.expBits = 2 * (f.emax + 1) := by
    rw [hf.emax, sub_add_cancel, ← pow_succ']
    congr 1
    have := hf.exp.1
    omega
  have hpowN : ((2 ^ f.expBits : ℕ) : ℤ) = 2 * (f.emax + 1) := by exact_mod_cast hpow
  have hn0 : r.n ≠ 0 := (lt_of_lt_of_le (by positivity) hlo).ne'
  obtain ⟨e, he⟩ : ∃ e : ℕ, r.log2 + f.emax = e := ⟨_, (Int.toNat_of_nonneg (by omega)).symm⟩
  have helt : e < 2 ^ f.expBits := by omega
  have hmlt : (r.n <<< (f.frac - r.n.log2)) % 2 ^ f.frac < 2 ^ f.frac := Nat.mod_lt _ (by positivity)
  have hencode : f.encode s r = f.assemble s e ((r.n <<< (f.frac - r.n.log2)) % 2 ^ f.frac) := by
    rw [Fmt.encode, if_neg hn0, if_pos hmin, he, Int.toNat_natCast]
  obtain ⟨hexp, hfrac, hsign⟩ := assemble_fields (s := s) helt hmlt
  rw [hencode]
  refine ⟨by rw [formatFinite, hexp]; simp only [bne_iff_ne]; omega, hsign, ?_, assemble_lt helt hmlt⟩
  obtain ⟨hl1, hl2⟩ := log2_mono_of_le hlo hhi
  have hsig : (r.n : ℚ) = 2 ^ r.n.log2 * (1 + ((r.n <<< (f.frac - r.n.log2)) % 2 ^ f.frac : ℕ) / 2 ^ f.frac) := by
    rw [Nat.sub_eq_zero_of_le hl1, Nat.shiftLeft_zero]
    rcases Nat.lt_or_ge r.n (2 ^ (f.frac + 1)) with h | h
    · have hlog : r.n.log2 = f.frac := (Nat.log2_eq_iff hn0).mpr ⟨hlo, h⟩
      have hmod : r.n % 2 ^ f.frac = r.n - 2 ^ f.frac := by
        rw [Nat.mod_eq_sub_mod hlo, Nat.mod_eq_of_lt]
        rw [pow_succ] at h
        omega
      rw [hlog, hmod, Nat.cast_sub hlo]
      push_cast
      field_simp
      ring
    · have heq : r.n = 2 ^ (f.frac + 1) := le_antisymm hhi h
      have hmod : r.n % 2 ^ f.frac = 0 := by rw [heq, pow_succ, Nat.mul_mod_right]
      rw [hmod, heq, Nat.log2_two_pow]
      simp
  rw [formatVal, hexp, hfrac, hsign, if_neg (by omega), Rounded.val, hsig, mul_assoc]
  have hbias : (e : ℤ) - (2 ^ (f.expBits - 1) - 1) = r.n.log2 + r.k := by
    rw [← hf.emax, ← he, Rounded.log2]
    ring
  rw [hbias, zpow_add₀ two_ne_zero, zpow_natCast]
  ring

end Sys2Proof.Machine

/-! # Stores of numbers (O26, O27, O28, O29) -/

namespace Sys2Proof.Machine

/-! ## How a store ends -/

section Ends

variable {s u v : State} {i : Instr} {m : MemOp} {n pops : ℕ} {r : Result} {body : State → Stored} {fin : State → State}
  {bs : List Byte}

/-- A store that is done, once its bytes are certain. -/
theorem begun_stored (hb : s.Begun u i) (hs : s.Sound) (hframed : FramedStore body)
    (hsome : ∀ v bs, body u = (v, some bs) →
      r = .next ((v.store (s.placeAddrs (s.place i.prefixes m) n) bs).advance i))
    (hbody : body u = (fin v, some bs)) (hv : u.Steady v) (hf : Pops fin pops) (hl : bs.length = n) (hn : n ≤ 2 ^ 16) :
    ∃ t, r = .next t ∧ storedAs s t i m n (leNat bs) pops ∧ t.sw.c1 = v.sw.c1 ∧ ∀ xs, s.Raised v xs → s.Raised t xs := by
  have hframe := hframed u
  rw [hbody] at hframe
  obtain ⟨hregs, hpopped⟩ := hv.pop hf
  refine ⟨_, hsome _ _ hbody, hb.storedAs hs hframe (hb.keepsRegs hregs) (hb.popped hpopped) hl hn, ?_,
    fun xs hx => raised_of_errors hx (hf.errors v)⟩
  show (fin v).sw.c1 = v.sw.c1
  rw [(hf v).2.1]

/-- A store whose exception is unmasked. -/
theorem begun_stored_none (hb : s.Begun u i) (hframed : FramedStore body)
    (hnone : ∀ v, body u = (v, none) → r = .next (v.advance i)) (hbody : body u = (v, none)) (hv : u.Steady v) :
    r = .next (v.advance i) ∧ s.KeepsMemory (v.advance i) [] ∧ s.KeepsRegs (v.advance i) []
      ∧ s.Popped (v.advance i) none 0 ∧ s.CompletedNumeric (v.advance i) i := by
  have hframe := hframed u
  rw [hbody] at hframe
  exact ⟨hnone _ hbody, hb.notStored hframe hv⟩

end Ends

/-! ## Real stores (R135, R203, R204) -/

theorem framedStore_storeReal (f : Fmt) (n : ℕ) : FramedStore (storeReal f (finish n)) :=
  framedStore_of_leads fun _ => storeReal_leads (finish_leads List.mem_finRange n)

theorem framedStore_storeInt (b n : ℕ) : FramedStore (storeInt b (finish n)) :=
  framedStore_of_leads fun _ => storeInt_leads (finish_leads List.mem_finRange n)

theorem framedStore_storeBcd : FramedStore storeBcd :=
  framedStore_of_leads fun _ => storeBcd_leads (frame_leads_pop (List.mem_append_left _ (List.mem_finRange _)))

/-- The four real stores, each with its format. -/
theorem storeReal_runs {p : List Prefix} {m : MemOp} {s : State} {i : Instr} {n k fr pops : ℕ} {r : Result}
    (hexec : exec i s = r)
    (hi : (i = .fstM32 p m ∧ n = 4 ∧ k = 8 ∧ fr = 23 ∧ pops = 0) ∨ (i = .fstpM32 p m ∧ n = 4 ∧ k = 8 ∧ fr = 23 ∧ pops = 1)
      ∨ (i = .fstM64 p m ∧ n = 8 ∧ k = 11 ∧ fr = 52 ∧ pops = 0)
      ∨ (i = .fstpM64 p m ∧ n = 8 ∧ k = 11 ∧ fr = 52 ∧ pops = 1))
    (hr : s.Ready true) (hreach : s.Reachable p m true n) :
    ∃ f, FormatSizes f ∧ f.expBits = k ∧ f.frac = fr ∧ f.p = fr + 1 ∧ f.bytes = n ∧ 8 * n = 1 + k + fr ∧ pops ≤ 2 ∧ n ≤ 2 ^ 16
      ∧ StoresTo r i m n s (storeReal f (finish pops)) := by
  rcases hi with ⟨rfl, rfl, rfl, rfl, rfl⟩ | ⟨rfl, rfl, rfl, rfl, rfl⟩ | ⟨rfl, rfl, rfl, rfl, rfl⟩ | ⟨rfl, rfl, rfl, rfl, rfl⟩
  · have h := storesTo_numStore (i := .fstM32 p m) hexec rfl hr hreach
    exact ⟨.single, formatSizes_single, rfl, rfl, rfl, rfl, rfl, by norm_num, by norm_num, h⟩
  · have h := storesTo_numStore (i := .fstpM32 p m) hexec rfl hr hreach
    exact ⟨.single, formatSizes_single, rfl, rfl, rfl, rfl, rfl, by norm_num, by norm_num, h⟩
  · have h := storesTo_numStore (i := .fstM64 p m) hexec rfl hr hreach
    exact ⟨.double, formatSizes_double, rfl, rfl, rfl, rfl, rfl, by norm_num, by norm_num, h⟩
  · have h := storesTo_numStore (i := .fstpM64 p m) hexec rfl hr hreach
    exact ⟨.double, formatSizes_double, rfl, rfl, rfl, rfl, rfl, by norm_num, by norm_num, h⟩

theorem storeReal_normal {u : State} {f : Fmt} {fin : State → State} (he : u.stEmpty 0 = false)
    (hx : classify (u.st 0) = .normal) : storeReal f fin u = storeFinite f (u.st 0) fin u.drawC320 := by
  have he' : u.drawC320.stEmpty 0 = false := he
  have hst : u.drawC320.st 0 = u.st 0 := rfl
  simp only [storeReal, he', hst, Bool.false_eq_true, if_false, hx]

theorem storeReal_zero {u : State} {f : Fmt} {fin : State → State} (he : u.stEmpty 0 = false)
    (hx : (u.st 0).isZero = true) :
    storeReal f fin u = (fin (u.drawC320.setC1 false), some (leBytes f.bytes (f.assemble (u.st 0).sign 0 0))) := by
  have hc : classify (u.st 0) = .zero := by simpa [Ext.isZero] using hx
  have he' : u.drawC320.stEmpty 0 = false := he
  have hst : u.drawC320.st 0 = u.st 0 := rfl
  have hsig : (u.st 0).sig.toNat = 0 := Ext.mag_n_of_zero hx
  have hexp : (u.st 0).exp = 0 := by
    by_contra hne
    have hne' : (u.st 0).exp ≠ 0 := hne
    unfold classify at hc
    rw [if_neg hne'] at hc
    split at hc
    · split at hc
      · split at hc
        · cases hc
        · split at hc <;> cases hc
      · cases hc
    · cases hc
  have hchop : chopSpecial f (u.st 0) = f.assemble (u.st 0).sign 0 0 := by
    rw [chopSpecial, if_pos hexp, hsig, Nat.zero_mod, Nat.zero_div]
  simp only [storeReal, he', hst, Bool.false_eq_true, if_false, hc, hchop]

section DeliverMem

variable {f : Fmt} (hf : FormatSizes f) (hp : f.p = f.frac + 1) {neg : Bool} {rc : Rounding} {m : Mag} {x : ℝ}
  (hn : m.n ≠ 0) (h : m.Denotes x) (hm : m.more = true → f.p ≤ m.n.log2)
include hf hp hn h hm

/-- A value of the format's normal range (R135). -/
theorem deliverMem_inRange (cw : Word16) (before : Bool) (hlo : 2 ^ f.emin ≤ x) (hhi : x < 2 ^ f.emax) :
    ∃ w, deliverMem f cw before neg m rc = .rounded (some w) [] (roundTo neg rc m f.p)
      ∧ formatFinite f.expBits f.frac w = true ∧ signField f.expBits f.frac w = neg
      ∧ formatVal f.expBits f.frac w = (roundTo neg rc m f.p).val neg ∧ w < 2 ^ (1 + f.expBits + f.frac) := by
  have hp1 : 1 ≤ f.p := by omega
  have h1 := h.le_log2 hn hlo
  have h2 := h.log2_lt hn hhi
  obtain ⟨h3, h4⟩ := roundTo_log2 (neg := neg) (rc := rc) hp1 h hn hm
  obtain ⟨hnlo, hnhi⟩ := roundTo_n (neg := neg) (rc := rc) hp1 h hn hm
  have hsub : f.p - 1 = f.frac := by omega
  rw [hsub] at hnlo
  rw [hp] at hnhi
  rw [← hp] at hnhi
  refine ⟨f.encode neg (roundTo neg rc m f.p), ?_, encode_normal hf hnlo (hp ▸ hnhi) (by omega) (by omega)⟩
  have hover : ¬ f.emax < (roundTo neg rc m f.p).log2 := by omega
  have htiny : ¬ isTiny before f.emin m (roundTo neg rc m f.p) = true := by
    unfold isTiny
    rw [decide_eq_true_iff]
    split <;> omega
  simp only [deliverMem, hover, htiny, if_false]
  rfl

omit hf in
/-- An unmasked overflow (R135, R138). -/
theorem deliverMem_overflow (cw : Word16) (before : Bool) (hlo : 2 ^ (f.emax + 1) ≤ x) (hmask : masked cw .oe = false) :
    deliverMem f cw before neg m rc = { val := none, flags := [.oe], c1 := false, inexact := true } := by
  have h1 := h.le_log2 hn hlo
  obtain ⟨h3, -⟩ := roundTo_log2 (neg := neg) (rc := rc) (by omega) h hn hm
  have hover : f.emax < (roundTo neg rc m f.p).log2 := by omega
  simp only [deliverMem, hover, hmask, if_true, Bool.false_eq_true, if_false]

/-- An unmasked underflow (R135, R138). -/
theorem deliverMem_underflow (cw : Word16) (before : Bool) (hhi : x < 2 ^ (f.emin - 1)) (hmask : masked cw .ue = false) :
    deliverMem f cw before neg m rc = { val := none, flags := [.ue], c1 := false, inexact := true } := by
  have h2 := h.log2_lt hn hhi
  obtain ⟨-, h4⟩ := roundTo_log2 (neg := neg) (rc := rc) (by omega) h hn hm
  have hmin := hf.emin
  have hmax := hf.emax_bounds.1
  have hover : ¬ f.emax < (roundTo neg rc m f.p).log2 := by omega
  have htiny : isTiny before f.emin m (roundTo neg rc m f.p) = true := by
    unfold isTiny
    rw [decide_eq_true_iff]
    split <;> omega
  simp only [deliverMem, hover, htiny, hmask, if_true, Bool.false_eq_true, if_false]

end DeliverMem

/-- What a store of a normal number does, by the delivery. -/
theorem storeFinite_eq {f : Fmt} {x : Ext} {fin : State → State} {t : State} {d : Delivery (Option ℕ)}
    (hd : deliverMem f t.cw t.params.tinyBefore x.sign x.mag t.rc = d) :
    storeFinite f x fin t =
      match d.val with
      | none => (t.raiseAll d.flags, none)
      | some w => (fin ((t.raiseAll d.flags).setC1 d.c1), some (leBytes f.bytes w)) := by
  rw [← hd]
  rfl

theorem leNat_leBytes_of_lt {n w : ℕ} (h : w < 2 ^ (8 * n)) : leNat (leBytes n w) = w := by
  rw [leNat_leBytes, Nat.mod_eq_of_lt (by rwa [show (256 : ℕ) = 2 ^ 8 by norm_num, ← pow_mul])]

theorem mag_val_cast_bounds {x : Ext} {a b : ℤ} (hlo : 2 ^ a ≤ |x.val|) (hhi : |x.val| < 2 ^ b) :
    (2 : ℝ) ^ a ≤ (x.mag.val : ℝ) ∧ (x.mag.val : ℝ) < 2 ^ b := by
  rw [Ext.abs_val] at hlo hhi
  have hlo := (Rat.cast_le (K := ℝ)).mpr hlo
  have hhi := (Rat.cast_lt (K := ℝ)).mpr hhi
  rw [Rat.cast_zpow, Rat.cast_ofNat] at hlo hhi
  exact ⟨hlo, hhi⟩

theorem normal_of_ne_zero {x : Ext} (ho : x.ordinary = true) (hz : x.isZero = false) : classify x = .normal :=
  (ordinary_cases ho).resolve_left (by rw [hz]; exact Bool.false_ne_true)

/-- Settles O26: a zero is stored as a zero, a normal number in range as `encode` of its rounding. -/
theorem fstRealStoresTheRoundedValue : Obligations.FstRealStoresTheRoundedValue := by
  intro p m s i n k fr pops hi hs hr hreach he ho hrange
  obtain ⟨f, hf, rfl, rfl, hp, hbytes, hsize, hpops, hn, u, hb, -, hsome⟩ := storeReal_runs rfl hi hr hreach
  have heu : u.stEmpty 0 = false := (hb.stEmpty 0).trans he
  have hq := drawC320_quiet u
  have finish : ∀ {v : State} {w : ℕ}, storeReal f (finish pops) u = (finish pops v, some (leBytes f.bytes w)) → u.Steady v →
      w < 2 ^ (1 + f.expBits + f.frac) →
      ∃ t, exec i s = .next t ∧ storedAs s t i m n w pops ∧ t.sw.c1 = v.sw.c1 ∧ ∀ xs, s.Raised v xs → s.Raised t xs :=
    fun {v w} hbody hv hw => by
      have h := begun_stored hb hs (framedStore_storeReal f pops) hsome hbody hv (pops_finish hpops)
        ((leBytes_length _ _).trans hbytes) hn
      rwa [leNat_leBytes_of_lt (by rwa [hbytes, hsize])] at h
  cases hz : (s.st 0).isZero with
  | true =>
    have hbody := storeReal_zero (f := f) (fin := Machine.finish pops) heu (by rwa [hb.st])
    rw [hb.st] at hbody
    obtain ⟨hfinite, hsign, hval, hw⟩ := assemble_zero hf (s.st 0).sign
    obtain ⟨t, hexec, hstored, hc1, hraised⟩ := finish hbody (hq.setC1 false).toSteady hw
    refine ⟨t, _, hexec, hstored, hfinite, hsign, ?_, ?_, ?_⟩
    · rw [hval, Ext.val_of_zero hz, Rat.cast_zero]
      exact roundsAmong_self ⟨0, 0, by simp, by simp⟩
    · rw [hval, Ext.val_of_zero hz, if_pos rfl]
      exact hraised [] (hb.raised ((hq.setC1 false).raised (raised_nil _)))
    · rw [hval, Ext.val_of_zero hz, hc1]
      simp [State.setC1]
  | false =>
    have hx := normal_of_ne_zero ho hz
    obtain ⟨hlo, hhi⟩ := hrange.resolve_left (by rw [hz]; exact Bool.false_ne_true)
    have hemin : (2 - 2 ^ (f.expBits - 1) : ℤ) = f.emin := by rw [hf.emin, hf.emax]; ring
    rw [hemin] at hlo
    rw [← hf.emax] at hhi
    obtain ⟨hlo, hhi⟩ := mag_val_cast_bounds hlo hhi
    have hd0 := Mag.denotes_val (s.st 0).mag_more
    obtain ⟨-, hn0, -, -, -⟩ := normal_mag hx
    obtain ⟨w, hd, hfinite, hsign, hval, hw⟩ := deliverMem_inRange (neg := (s.st 0).sign) (rc := s.rc) hf hp hn0 hd0
      nofun u.drawC320.cw u.drawC320.params.tinyBefore hlo hhi
    obtain ⟨hrounds, hinexact, hup⟩ := roundTo_roundedAmong (neg := (s.st 0).sign) (rc := s.rc) (p := f.p)
      (by have := hf.frac.1; omega) hn0 hd0 nofun
    rw [← hval, ← Rat.cast_mul, ← Ext.val_eq] at hrounds hinexact hup
    generalize roundTo (s.st 0).sign s.rc (s.st 0).mag f.p = y at *
    have hrc : u.drawC320.rc = s.rc := hb.rc
    rw [← hrc] at hd
    have hbody : storeReal f (Machine.finish pops) u =
        (Machine.finish pops ((u.drawC320.raiseAll (if y.inexact then [.pe] else [])).setC1 y.up),
          some (leBytes f.bytes w)) := by
      rw [storeReal_normal heu (by rwa [hb.st]), hb.st]
      exact storeFinite_eq hd
    obtain ⟨t, hexec, hstored, hc1, hraised⟩ := finish hbody ((hq.toSteady.raiseAll _).setC1 _) hw
    have hc1 : t.sw.c1 = y.up := hc1
    refine ⟨t, w, hexec, hstored, hfinite, hsign, hp ▸ hrounds, ?_, ?_⟩
    · rw [← inexact_flags (hinexact.trans (not_congr Rat.cast_inj))]
      exact hraised _ (hb.raised (raised_of_errors (hq.raised (raiseAll_raised _ _)) rfl))
    · rw [hc1, hup]
      exact_mod_cast Iff.rfl

/-- Settles O27: the delivery answers no bits, so nothing is stored. -/
theorem unmaskedOverflowStoresNothing : Obligations.UnmaskedOverflowStoresNothing := by
  intro p m s i n k hi hr hreach he hx x hrange hmask
  obtain ⟨fr, pops, hi⟩ : ∃ fr pops, (i = .fstM32 p m ∧ n = 4 ∧ k = 8 ∧ fr = 23 ∧ pops = 0)
      ∨ (i = .fstpM32 p m ∧ n = 4 ∧ k = 8 ∧ fr = 23 ∧ pops = 1) ∨ (i = .fstM64 p m ∧ n = 8 ∧ k = 11 ∧ fr = 52 ∧ pops = 0)
      ∨ (i = .fstpM64 p m ∧ n = 8 ∧ k = 11 ∧ fr = 52 ∧ pops = 1) := by
    rcases hi with ⟨rfl | rfl, rfl, rfl⟩ | ⟨rfl | rfl, rfl, rfl⟩
    · exact ⟨_, _, .inl ⟨rfl, rfl, rfl, rfl, rfl⟩⟩
    · exact ⟨_, _, .inr (.inl ⟨rfl, rfl, rfl, rfl, rfl⟩)⟩
    · exact ⟨_, _, .inr (.inr (.inl ⟨rfl, rfl, rfl, rfl, rfl⟩))⟩
    · exact ⟨_, _, .inr (.inr (.inr ⟨rfl, rfl, rfl, rfl, rfl⟩))⟩
  obtain ⟨f, hf, rfl, rfl, hp, -, -, -, -, u, hb, hnone, -⟩ := storeReal_runs rfl hi hr hreach
  have heu : u.stEmpty 0 = false := (hb.stEmpty 0).trans he
  have hq := drawC320_quiet u
  obtain ⟨-, hn0, -, -, -⟩ := normal_mag hx
  have hd0 := Mag.denotes_val (s.st 0).mag_more
  have hmasku : masked u.drawC320.cw x = false := by
    rw [← hmask]
    exact congrArg (masked · x) hb.cw
  have hd : deliverMem f u.drawC320.cw u.drawC320.params.tinyBefore (s.st 0).sign (s.st 0).mag u.drawC320.rc
      = { val := none, flags := [x], c1 := false, inexact := true } := by
    rcases hrange with ⟨rfl, hlo⟩ | ⟨rfl, hhi⟩
    · have hemax : (2 ^ (f.expBits - 1) : ℤ) = f.emax + 1 := by rw [hf.emax]; ring
      rw [hemax] at hlo
      exact deliverMem_overflow hp hn0 hd0 nofun _ _ (mag_val_cast_bounds hlo (abs_val_lt_of_normal hx)).1 hmasku
    · have hemin : (1 - 2 ^ (f.expBits - 1) : ℤ) = f.emin - 1 := by rw [hf.emin, hf.emax]; ring
      rw [hemin, Ext.abs_val] at hhi
      have hhi := (Rat.cast_lt (K := ℝ)).mpr hhi
      rw [Rat.cast_zpow, Rat.cast_ofNat] at hhi
      exact deliverMem_underflow hf hp hn0 hd0 nofun _ _ hhi hmasku
  have hbody := storeReal_normal (f := f) (fin := finish pops) heu (by rwa [hb.st])
  rw [hb.st, storeFinite_eq hd] at hbody
  obtain ⟨hexec, hmem, hregs, hpopped, hcompleted⟩ := begun_stored_none hb (framedStore_storeReal f pops) hnone hbody
    (hq.toSteady.raiseAll [x])
  exact ⟨_, hexec, hmem, hregs, hpopped, hb.raised (hq.raised (raiseAll_raised _ [x])), hcompleted⟩

end Sys2Proof.Machine

/-! # Stores of integers and decimals (O28, O29) -/

namespace Sys2Proof.Machine

/-! ## A finite operand rounded for a store (R131) -/

theorem zero_fields {x : Ext} (h : x.isZero = true) : x.exp = 0 ∧ x.sig = 0 := by
  unfold Ext.isZero classify at h
  split at h
  next hexp =>
    split at h
    next hsig => exact ⟨hexp, hsig⟩
    · split at h <;> cases h
  · split at h
    · split at h
      · split at h
        · cases h
        · split at h <;> cases h
      · cases h
    · cases h

theorem sig_ne_zero_of_finite {x : Ext} (h : x.isFiniteNonzero = true) : x.mag.n ≠ 0 := fun h0 => by
  have hsig : x.sig = 0 := BitVec.eq_of_toNat_eq h0
  unfold Ext.isFiniteNonzero classify at h
  have h63 : (0 : BitVec 64).getLsbD 63 = false := by decide
  rw [hsig, h63] at h
  split at h <;> simp at h

/-- A large finite number is an integer of at least that size. -/
theorem large_integer {x : Ext} (h0 : x.mag.n ≠ 0) (h : 64 ≤ x.mag.log2) : ∃ z : ℤ, x.val = z ∧ 2 ^ 64 ≤ z.natAbs := by
  have hlog := log2_le_63 (mag_n_lt x)
  obtain ⟨c, hc⟩ := Int.eq_ofNat_of_zero_le (show 0 ≤ x.mag.k by unfold Mag.log2 at h; omega)
  refine ⟨signedInt x.sign (x.mag.n * 2 ^ c), ?_, ?_⟩
  · rw [signedInt_cast, Ext.val_eq, Mag.val, hc]
    push_cast
    rfl
  · rw [natAbs_signedInt]
    have hlo := Nat.log2_self_le h0
    calc 2 ^ 64 ≤ 2 ^ (x.mag.n.log2 + c) := Nat.pow_le_pow_right two_pos (by unfold Mag.log2 at h; omega)
      _ = 2 ^ x.mag.n.log2 * 2 ^ c := pow_add ..
      _ ≤ x.mag.n * 2 ^ c := Nat.mul_le_mul_right _ hlo

/-- What `roundStored` makes of a finite number that rounds to `z`. -/
theorem roundStored_spec {x : Ext} {rc : Rounding} {z : ℤ} (hx : x.isZero = true ∨ x.isFiniteNonzero = true)
    (hz : RoundsToInt rc (x.val : ℝ) z) :
    (2 ^ 64 ≤ z.natAbs ∧ (roundStored x rc).n = 2 ^ 64)
      ∨ (signedInt x.sign (roundStored x rc).n = z ∧ ((roundStored x rc).inexact = true ↔ (z : ℚ) ≠ x.val)
        ∧ ((roundStored x rc).up = true ↔ |x.val| < |(z : ℚ)|)) := by
  unfold roundStored
  split
  next hlarge =>
    refine .inl ⟨?_, rfl⟩
    have h0 : x.mag.n ≠ 0 := by
      rcases hx with hx | hx
      · obtain ⟨hexp, hsig⟩ := zero_fields hx
        unfold Mag.log2 Ext.mag at hlarge
        rw [if_pos hexp, hsig] at hlarge
        exact absurd hlarge (by decide)
      · exact sig_ne_zero_of_finite hx
    obtain ⟨z', hval, hbig⟩ := large_integer h0 hlarge
    rw [hval, Rat.cast_intCast] at hz
    rwa [hz.unique (roundsToInt_self rc z')]
  next hsmall =>
    obtain ⟨hr, hi, hu⟩ := roundInt_ext rc x
    have heq := hr.unique hz
    rw [heq] at hi hu
    exact .inr ⟨heq, hi, hu⟩

theorem notNumber_false {x : Ext} (hx : x.isZero = true ∨ x.isFiniteNonzero = true) : notNumber x = false := by
  unfold notNumber Ext.isUnsupported Ext.isNan Ext.isInf
  unfold Ext.isZero Ext.isFiniteNonzero at hx
  revert hx
  cases classify x <;> decide

/-! ## How these stores end (R208, R211) -/

section Ends

variable {s u t w : State} {i : Instr} {m : MemOp} {n pops : ℕ} {r : Result} {body : State → Stored} {fin : State → State}
  {resp : State → Stored} {bs : List Byte}

/-- A rounded number stored: PE and C1 tell how it was rounded. -/
theorem begun_storedRounded {x : ℚ} {z : ℤ} {y : Rounded} (hb : s.Begun u i) (hs : s.Sound) (hframed : FramedStore body)
    (hsome : ∀ v bs, body u = (v, some bs) →
      r = .next ((v.store (s.placeAddrs (s.place i.prefixes m) n) bs).advance i))
    (hq : u.Quiet t) (hbody : body u = (fin ((t.raiseIf y.inexact .pe).setC1 y.up), some bs)) (hf : Pops fin pops)
    (hl : bs.length = n) (hn : n ≤ 2 ^ 16) (hi : y.inexact = true ↔ (z : ℚ) ≠ x) (hup : y.up = true ↔ |x| < |(z : ℚ)|) :
    ∃ t, r = .next t ∧ storedAs s t i m n (leNat bs) pops ∧ s.Raised t (if (z : ℚ) = x then [] else [.pe])
      ∧ (t.sw.c1 = true ↔ |x| < |(z : ℚ)|) := by
  have hraised : s.Raised ((t.raiseIf y.inexact .pe).setC1 y.up) (if (z : ℚ) = x then [] else [.pe])
      ∧ u.Steady ((t.raiseIf y.inexact .pe).setC1 y.up) := by
    rw [← inexact_flags hi]
    unfold State.raiseIf
    cases y.inexact with
    | true => exact ⟨hb.raised (raised_of_errors (hq.raised (raise_raised t .pe)) rfl), (hq.toSteady.raise .pe).setC1 _⟩
    | false => exact ⟨hb.raised (raised_of_errors (hq.raised (raised_nil t)) rfl), hq.toSteady.setC1 _⟩
  obtain ⟨w, hexec, hstored, hc1, hr⟩ := begun_stored hb hs hframed hsome hbody hraised.2 hf hl hn
  refine ⟨w, hexec, hstored, hr _ hraised.1, ?_⟩
  rw [hc1]
  exact hup

/-- An invalid store. -/
theorem begun_storedInvalid (hb : s.Begun u i) (hs : s.Sound) (hframed : FramedStore body)
    (hnone : ∀ v, body u = (v, none) → r = .next (v.advance i))
    (hsome : ∀ v bs, body u = (v, some bs) →
      r = .next ((v.store (s.placeAddrs (s.place i.prefixes m) n) bs).advance i))
    (hq : u.Quiet t) (hbody : body u = t.respondStore .ie resp) (hresp : resp (t.raise .ie) = (fin w, some bs))
    (hw : u.Steady w) (herrors : w.sw.errors = (t.raise .ie).sw.errors) (hf : Pops fin pops) (hl : bs.length = n)
    (hn : n ≤ 2 ^ 16) :
    ∃ t, r = .next t ∧ s.Raised t [.ie] ∧ s.CompletedNumeric t i ∧ s.KeepsRegs t []
      ∧ (masked s.cw .ie = true → storedAs s t i m n (leNat bs) pops)
      ∧ (masked s.cw .ie = false → s.KeepsMemory t [] ∧ s.Popped t none 0) := by
  have hraised : s.Raised (t.raise .ie) [.ie] := hb.raised (hq.raised (raise_raised t .ie))
  have hmask : masked t.cw .ie = masked s.cw .ie := by rw [hq.cw, hb.cw]
  cases hm : masked s.cw .ie with
  | true =>
    have hbody : body u = (fin w, some bs) := by rw [hbody, State.respondStore, if_pos (hmask.trans hm), hresp]
    obtain ⟨v, hexec, hstored, -, hr⟩ := begun_stored hb hs hframed hsome hbody hw hf hl hn
    obtain ⟨-, -, hregs, -, hcompleted⟩ := id hstored
    exact ⟨v, hexec, hr _ (raised_of_errors hraised herrors), hcompleted, hregs, fun _ => hstored, nofun⟩
  | false =>
    have hbody : body u = (t.raise .ie, none) := by
      rw [hbody, State.respondStore, if_neg (by rw [hmask, hm]; exact Bool.false_ne_true)]
    obtain ⟨hexec, hmem, hregs, hpopped, hcompleted⟩ := begun_stored_none hb hframed hnone hbody (hq.toSteady.raise .ie)
    exact ⟨_, hexec, hraised, hcompleted, hregs, nofun, fun _ => ⟨hmem, hpopped⟩⟩

end Ends

/-! ## FIST and FISTP (R208, R209) -/

theorem storeInt_runs {p : List Prefix} {m : MemOp} {s : State} {i : Instr} {n pops : ℕ} {r : Result}
    (hexec : exec i s = r)
    (hi : (i = .fistI16 p m ∧ n = 2 ∧ pops = 0) ∨ (i = .fistI32 p m ∧ n = 4 ∧ pops = 0)
      ∨ (i = .fistpI16 p m ∧ n = 2 ∧ pops = 1) ∨ (i = .fistpI32 p m ∧ n = 4 ∧ pops = 1)
      ∨ (i = .fistpI64 p m ∧ n = 8 ∧ pops = 1)) (hr : s.Ready true) (hreach : s.Reachable p m true n) :
    StoresTo r i m n s (storeInt n (finish pops)) ∧ 1 ≤ n ∧ n ≤ 8 ∧ pops ≤ 2 := by
  rcases hi with ⟨rfl, rfl, rfl⟩ | ⟨rfl, rfl, rfl⟩ | ⟨rfl, rfl, rfl⟩ | ⟨rfl, rfl, rfl⟩ | ⟨rfl, rfl, rfl⟩
  all_goals
    have h := storesTo_numStore hexec rfl hr hreach
    exact ⟨h, by norm_num, by norm_num, by norm_num⟩

/-- The condition on which a store of an integer is invalid. -/
def intInvalid (n : ℕ) (x : Ext) (rc : Rounding) : Bool :=
  notNumber x || !fitsInt n (signedInt x.sign (roundStored x rc).n)

theorem storeInt_eq {u : State} {n : ℕ} {fin : State → State} (he : u.stEmpty 0 = false) :
    storeInt n fin u =
      if intInvalid n (u.st 0) u.rc then
        u.drawC320.respondStore .ie fun s => (fin (s.setC1 false), some (intIndefinite n))
      else (fin ((u.drawC320.raiseIf (roundStored (u.st 0) u.rc).inexact .pe).setC1 (roundStored (u.st 0) u.rc).up),
        some (intBytes n (signedInt (u.st 0).sign (roundStored (u.st 0) u.rc).n))) :=
  if_neg (Bool.eq_false_iff.mp he)

theorem fitsInt_iff {n : ℕ} {z : ℤ} : fitsInt n z = true ↔ -(2 ^ (8 * n - 1) : ℤ) ≤ z ∧ z ≤ 2 ^ (8 * n - 1) - 1 := by
  rw [fitsInt, Bool.and_eq_true, decide_eq_true_iff, decide_eq_true_iff]

theorem not_fits_large {n : ℕ} (hn : n ≤ 8) (neg : Bool) : fitsInt n (signedInt neg (2 ^ 64)) = false := by
  have hpow : (2 : ℤ) ^ (8 * n - 1) ≤ 2 ^ 63 := pow_le_pow_right₀ (by norm_num) (by omega)
  rw [← Bool.not_eq_true, fitsInt_iff]
  cases neg <;> simp only [signedInt, if_true, Bool.false_eq_true, if_false] <;> omega

/-- Settles O28. -/
theorem fistStoresTheRoundedInteger : Obligations.FistStoresTheRoundedInteger := by
  intro p m s i n pops hi hs hr hreach he
  obtain ⟨⟨u, hb, hnone, hsome⟩, hn1, hn8, hpops⟩ := storeInt_runs rfl hi hr hreach
  have hbody := storeInt_eq (n := n) (fin := finish pops) ((hb.stEmpty 0).trans he)
  rw [hb.st, hb.rc] at hbody
  have hq := drawC320_quiet u
  have hframed := framedStore_storeInt n pops
  have hn16 : n ≤ 2 ^ 16 := by omega
  refine ⟨fun z hx hz hlo hhi => ?_, fun hinvalid => ?_⟩
  · have hpow : (2 : ℤ) ^ (8 * n - 1) ≤ 2 ^ 63 := pow_le_pow_right₀ (by norm_num) (by omega)
    obtain ⟨heq, hinexact, hup⟩ := (roundStored_spec hx hz).resolve_left fun h => by
      have := h.1
      omega
    have hvalid : intInvalid n (s.st 0) s.rc = false := by
      rw [intInvalid, notNumber_false hx, heq, fitsInt_iff.mpr ⟨hlo, hhi⟩]
      rfl
    rw [if_neg (Bool.eq_false_iff.mp hvalid), heq] at hbody
    obtain ⟨t, hexec, hstored, hraised, hc1⟩ := begun_storedRounded hb hs hframed hsome hq hbody (pops_finish hpops)
      (leBytes_length n _) hn16 hinexact hup
    rw [intBytes, leNat_leBytes_of_lt (BitVec.isLt _)] at hstored
    exact ⟨t, hexec, hstored, hraised, hc1⟩
  · have hinv : intInvalid n (s.st 0) s.rc = true := by
      unfold intInvalid
      rcases hinvalid with h | h | h | ⟨hfin, z, hz, hout⟩
      · rw [notNumber, h, Bool.or_true, Bool.true_or, Bool.true_or]
      · rw [notNumber, h, Bool.or_true, Bool.true_or]
      · rw [notNumber, h, Bool.true_or, Bool.true_or, Bool.true_or]
      · rw [Bool.or_eq_true, Bool.not_eq_true']
        refine .inr ?_
        rcases roundStored_spec (.inr hfin) hz with ⟨-, hbig⟩ | ⟨heq, -⟩
        · rw [hbig]
          exact not_fits_large hn8 _
        · rw [heq, ← Bool.not_eq_true, fitsInt_iff]
          omega
    rw [if_pos hinv] at hbody
    have h := begun_storedInvalid (w := (u.drawC320.raise .ie).setC1 false) hb hs hframed hnone hsome hq hbody rfl
      ((hq.toSteady.raise .ie).setC1 false) rfl (pops_finish hpops) (leBytes_length n _) hn16
    rwa [intIndefinite, leNat_leBytes_of_lt (Nat.pow_lt_pow_right (by norm_num) (by omega))] at h

/-! ## FBSTP (R211) -/

/-- The condition on which a store of a decimal is invalid. -/
def bcdInvalid (x : Ext) (rc : Rounding) : Bool := notNumber x || decide (10 ^ 18 - 1 < (roundStored x rc).n)

theorem storeBcd_eq {u : State} (he : u.stEmpty 0 = false) :
    storeBcd u =
      if bcdInvalid (u.st 0) u.rc then u.drawC320.respondStore .ie fun s => (s.setC1 false).storeBcdIndefinite
      else (((u.drawC320.raiseIf (roundStored (u.st 0) u.rc).inexact .pe).setC1 (roundStored (u.st 0) u.rc).up).pop,
        some (leBytes 10 ((u.st 0).sign.toNat * 2 ^ 79 + packDigits 18 (roundStored (u.st 0) u.rc).n))) :=
  if_neg (Bool.eq_false_iff.mp he)

/-- The digits of a number written in packed decimal. -/
theorem packDigits_spec (n v : ℕ) : packDigits n v < 16 ^ n ∧ ∀ k, k < n → packDigits n v / 16 ^ k % 16 = v / 10 ^ k % 10 := by
  induction n generalizing v with
  | zero => exact ⟨by simp [packDigits], fun k hk => absurd hk k.not_lt_zero⟩
  | succ n ih =>
    obtain ⟨hlt, hdigit⟩ := ih (v / 10)
    refine ⟨?_, fun k hk => ?_⟩
    · rw [packDigits, pow_succ]
      omega
    · rw [packDigits]
      cases k with
      | zero => simp only [pow_zero, Nat.div_one]; omega
      | succ k =>
        have h1 : (v % 10 + 16 * packDigits n (v / 10)) / 16 = packDigits n (v / 10) := by omega
        rw [pow_succ', ← Nat.div_div_eq_div_mul, h1, hdigit k (by omega), pow_succ', Nat.div_div_eq_div_mul]

/-- The decimal digits of a number add up to it. -/
theorem sum_digits (n v : ℕ) : ((List.range n).map fun k => v / 10 ^ k % 10 * 10 ^ k).sum = v % 10 ^ n := by
  induction n with
  | zero => simp [Nat.mod_one]
  | succ n ih =>
    rw [List.range_succ, List.map_append, List.sum_append, ih, List.map_singleton, List.sum_singleton, pow_succ,
      Nat.mod_mul, mul_comm (10 ^ n)]

/-- The ten bytes of a sign and eighteen decimal digits (R60). -/
theorem decimal_word {w v : ℕ} {neg : Bool} (hv : v < 10 ^ 18) (hw : w = neg.toNat * 2 ^ 79 + packDigits 18 v) :
    w < 2 ^ (8 * 10) ∧ w.testBit 79 = neg ∧ (∀ k, k < 18 → w / 16 ^ k % 16 ≤ 9) ∧ w / 2 ^ 72 % 2 ^ 7 = 0
      ∧ decimalVal w = v := by
  obtain ⟨hlt, hdigit⟩ := packDigits_spec 18 v
  have hneg : neg.toNat ≤ 1 := Bool.toNat_le neg
  have hdigits : ∀ k, k < 18 → w / 16 ^ k % 16 = v / 10 ^ k % 10 := fun k hk => by
    rw [← hdigit k hk, hw]
    obtain ⟨c, hc⟩ : ∃ c, neg.toNat * 2 ^ 79 = 16 ^ k * (16 * c) := by
      refine ⟨neg.toNat * 2 ^ (79 - 4 * (k + 1)), ?_⟩
      have h16 : (16 : ℕ) ^ k * 16 = 2 ^ (4 * (k + 1)) := by
        rw [← pow_succ, show (16 : ℕ) = 2 ^ 4 by norm_num, ← pow_mul]
      rw [← mul_assoc, h16, mul_left_comm, ← pow_add]
      congr 2
      omega
    rw [hc, add_comm, Nat.add_mul_div_left _ _ (by positivity), Nat.add_mul_mod_self_left]
  refine ⟨by omega, ?_, fun k hk => ?_, by omega, ?_⟩
  · rw [Nat.testBit_eq_decide_div_mod_eq]
    have : w / 2 ^ 79 = neg.toNat := by omega
    rw [this]
    cases neg <;> rfl
  · rw [hdigits k hk]
    omega
  · have hsum : decimalVal w = ((List.range 18).map fun k => v / 10 ^ k % 10 * 10 ^ k).sum := by
      unfold decimalVal
      refine congrArg List.sum (List.map_congr_left fun k hk => ?_)
      rw [hdigits k (List.mem_range.mp hk)]
    rw [hsum, sum_digits, Nat.mod_eq_of_lt hv]

/-- Settles O29. -/
theorem fbstpStoresTheRoundedDecimal : Obligations.FbstpStoresTheRoundedDecimal := by
  intro p m s hs hr hreach he
  obtain ⟨u, hb, hnone, hsome⟩ := storesTo_numStore (i := .fbstp p m) (m := m) (n := 10) (body := storeBcd) rfl rfl hr hreach
  have hbody := storeBcd_eq ((hb.stEmpty 0).trans he)
  rw [hb.st, hb.rc] at hbody
  have hq := drawC320_quiet u
  refine ⟨fun z hx hz hle => ?_, fun hinvalid => ?_⟩
  · obtain ⟨heq, hinexact, hup⟩ := (roundStored_spec hx hz).resolve_left fun h => by
      have := h.1
      omega
    have hn : (roundStored (s.st 0) s.rc).n = z.natAbs := by rw [← heq, natAbs_signedInt]
    have hvalid : bcdInvalid (s.st 0) s.rc = false := by
      rw [bcdInvalid, notNumber_false hx, hn, Bool.false_or, decide_eq_false_iff_not]
      omega
    rw [if_neg (Bool.eq_false_iff.mp hvalid)] at hbody
    obtain ⟨t, hexec, hstored, hraised, hc1⟩ := begun_storedRounded hb hs framedStore_storeBcd hsome hq hbody pops_pop
      (leBytes_length 10 _) (by norm_num) hinexact hup
    obtain ⟨hlt, hsign, hdigits, hzero, hval⟩ := decimal_word (neg := (s.st 0).sign) (v := z.natAbs) (by omega) rfl
    rw [hn, leNat_leBytes_of_lt hlt] at hstored
    exact ⟨t, _, hexec, hstored, hsign, hdigits, hzero, hval, hraised, hc1⟩
  · have hinv : bcdInvalid (s.st 0) s.rc = true := by
      unfold bcdInvalid
      rcases hinvalid with h | h | h | ⟨hfin, z, hz, hout⟩
      · rw [notNumber, h, Bool.or_true, Bool.true_or, Bool.true_or]
      · rw [notNumber, h, Bool.or_true, Bool.true_or]
      · rw [notNumber, h, Bool.true_or, Bool.true_or, Bool.true_or]
      · rw [Bool.or_eq_true, decide_eq_true_iff]
        refine .inr ?_
        rcases roundStored_spec (.inr hfin) hz with ⟨-, hbig⟩ | ⟨heq, -⟩
        · rw [hbig]
          norm_num
        · rwa [← natAbs_signedInt (s.st 0).sign (roundStored (s.st 0) s.rc).n, heq]
    rw [if_pos hinv] at hbody
    obtain ⟨t, hexec, hraised, hcompleted, hregs, hmasked, hunmasked⟩ := begun_storedInvalid
      (w := ((u.drawC320.raise .ie).setC1 false).drew) hb hs framedStore_storeBcd hnone hsome hq hbody rfl
      ⟨rfl, rfl, rfl⟩ rfl pops_pop (by simp [leBytes_length]) (by norm_num)
    refine ⟨t, hexec, hraised, hcompleted, hregs, fun hm => ⟨_, ?_, hmasked hm⟩, hunmasked⟩
    exact bcdIndefinite_high _

end Sys2Proof.Machine

/-! # The delivery of a transcendental result, and FSIN, FCOS, F2XM1 and the operands out of range (O48, O50) -/

namespace Sys2Proof.Machine

open Config (TransOp)

/-! ## A transcendental result delivered (R300 (c)) -/

theorem setFlag_c2 (w : StatusWord) (x : Exc) : (w.setFlag x).c2 = w.c2 := by cases x <;> rfl

theorem raise_c2 (t : State) (x : Exc) : (t.raise x).sw.c2 = t.sw.c2 := setFlag_c2 t.sw x

theorem raiseAll_c2 (t : State) (fs : List Exc) : (t.raiseAll fs).sw.c2 = t.sw.c2 := by
  induction fs generalizing t with
  | nil => rfl
  | cons x fs ih => exact (ih (t.raise x)).trans (raise_c2 t x)

/-- The delivery of a transcendental is a result put into a register, everything else of the stack being as before. -/
theorem deliverTrans_eq_putReg (t : State) (k : Fin 8) (v : Bool × Mag) (up : Bool) :
    ∃ w, t.Steady w ∧ w.sw.c2 = t.sw.c2 ∧ t.deliverTrans k v up =
      w.putReg k (deliver t.cw t.params.tinyBefore v.1 v.2 64 t.rc).val :=
  let d := deliver t.cw t.params.tinyBefore v.1 v.2 64 t.rc
  ⟨((t.raiseAll d.flags).raise .pe).setC1 (if d.inexact then d.c1 else up),
    (((⟨rfl, rfl, rfl⟩ : t.Steady t).raiseAll _).raise .pe).setC1 _, (raise_c2 _ .pe).trans (raiseAll_c2 t _), rfl⟩

section Delivered

variable {s u t w : State} {i : Instr} {fin : State → State} {n : Nat}

/-- The function of an instruction, delivered in the register `k`. -/
theorem deliveredTrans_of_quiet (h : s.Quiet t) (hp : t.params = s.params) (k : Fin 8) (op : TransOp) (y x : Ext) :
    deliveredTrans s (t.deliverTrans k (t.trans op y x) (t.transUp op y x)) k op y x := by
  have hv : t.trans op y x = transValue op y x s.rc := by rw [State.trans, h.rc]
  have hup : t.transUp op y x = Config.transUp op y x s.rc := by rw [State.transUp, h.rc]
  rw [hv, hup]
  unfold deliveredTrans
  generalize transValue op y x s.rc = v
  generalize Config.transUp op y x s.rc = up
  obtain ⟨hreg, hraised, hc1, -⟩ := deliverTrans_spec t k v up
  rw [h.cw, hp, h.rc] at hreg hraised hc1
  exact ⟨hreg, h.raised hraised, hc1⟩

/-- A change after the delivery that leaves the register and the errors. -/
theorem deliveredTrans_congr {k : Fin 8} {op : TransOp} {y x : Ext} (h : deliveredTrans s t k op y x)
    (hreg : w.reg k = t.reg k) (herrors : w.sw.errors = t.sw.errors) (hc1 : w.sw.c1 = t.sw.c1) :
    deliveredTrans s w k op y x := by
  obtain ⟨h1, h2, h3⟩ := h
  exact ⟨hreg.trans h1, raised_of_errors h2 herrors, hc1.trans h3⟩

theorem State.Begun.deliveredTrans_of (hb : s.Begun u i) {k : Fin 8} {op : TransOp} {y x : Ext}
    (h : deliveredTrans u t k op y x) : deliveredTrans s t k op y x := by
  unfold deliveredTrans at h ⊢
  rw [← hb.cw, ← hb.params, ← hb.rc]
  exact ⟨h.1, hb.raised h.2.1, h.2.2⟩

/-- An instruction that ends with the delivery of its function and pops. -/
theorem State.Begun.deliverTrans_put (hb : s.Begun u i) (h : u.Quiet t) (hp : t.params = u.params) (hf : Pops fin n)
    (k : Fin 8) (op : TransOp) (y x : Ext) :
    let w := (fin (t.deliverTrans k (t.trans op y x) (t.transUp op y x))).advance i
    deliveredTrans s w k op y x ∧ w.sw.c2 = t.sw.c2 ∧ s.KeepsRegs w [k] ∧ s.Popped w (some k) n := by
  intro w
  have hd := deliveredTrans_of_quiet h hp k op y x
  obtain ⟨v, hv, hc2, hw⟩ := deliverTrans_eq_putReg t k (t.trans op y x) (t.transUp op y x)
  have hsteady : u.Steady v := ⟨hv.regs.trans h.regs, hv.empty.trans h.empty, hv.top.trans h.top⟩
  obtain ⟨-, hregs, hpopped⟩ :=
    hsteady.put hf k (deliver t.cw t.params.tinyBefore (t.trans op y x).1 (t.trans op y x).2 64 t.rc).val
  rw [← hw] at hregs hpopped
  obtain ⟨hfr, hfsw, -⟩ := hf (t.deliverTrans k (t.trans op y x) (t.transUp op y x))
  have hreg : (fin (t.deliverTrans k (t.trans op y x) (t.transUp op y x))).reg k = _ :=
    congrArg (fun r : Vector Ext 8 => r[k]) hfr
  have hkeptC1 := congrArg StatusWord.c1 hfsw
  have hkeptC2 := congrArg StatusWord.c2 hfsw
  refine ⟨hb.deliveredTrans_of (deliveredTrans_congr hd hreg (hf.errors _) hkeptC1), hkeptC2.trans ?_,
    hb.keepsRegs hregs, hb.popped hpopped⟩
  rw [hw]
  exact hc2

end Delivered

/-! ## The range of an operand -/

/-- The range of R301 (a), on a normal number. -/
theorem outOfRange_iff {x : Ext} (hx : classify x = .normal) : outOfRange x = true ↔ (2 : ℚ) ^ (63 : ℤ) ≤ |x.val| := by
  obtain ⟨-, hn, -⟩ := normal_mag hx
  obtain ⟨hlo, hhi⟩ := Mag.val_log2_bounds hn
  rw [Ext.abs_val, outOfRange, decide_eq_true_eq]
  constructor
  · exact fun h => (zpow_le_zpow_right₀ one_le_two h).trans hlo
  · intro h
    have := (zpow_lt_zpow_iff_right₀ (one_lt_two (α := ℚ))).mp (h.trans_lt hhi)
    omega

/-- The comparison with 1, on the magnitude of a number. -/
theorem cmpOne_eq (x : Ext) : cmpOne x = compare |x.val| 1 := by
  rw [cmpOne, mag_cmp, Ext.abs_val]
  congr 1
  simp [Mag.val]

/-! ## The bodies of normal operands -/

section Bodies

variable {u : State} {dup go : Ext → State → State}

theorem trigNumber_normal {x : Ext} {t : State} (hx : classify x = .normal) :
    trigNumber dup go x t = if outOfRange x then t.drawC1.setC2 true else go x (t.setC2 false) := by
  obtain ⟨hz, hi, hd, -⟩ := normal_class hx
  simp only [trigNumber, hi, hz, Bool.false_eq_true, if_false, Bool.not_false, Bool.true_and]
  exact denormThen_of_eq_false hd

theorem trigOne_normal (he : u.stEmpty 0 = false) (hx : classify (u.st 0) = .normal) :
    trigOne go u = if outOfRange (u.st 0) then u.drawC30.drawC2.drawC1.setC2 true
      else go (u.st 0) (u.drawC30.drawC2.setC2 false) := by
  obtain ⟨-, -, -, hn⟩ := normal_class hx
  have hgo : trigOne go u = _ := oneOperand_number (s := u.drawC30.drawC2) he hn
  exact hgo.trans (trigNumber_normal hx)

theorem trigTwo_normal (he : u.stEmpty 0 = false) (hfull : u.full7 = false) (hx : classify (u.st 0) = .normal) :
    trigTwo go u = if outOfRange (u.st 0) then u.drawC30.drawC2.drawC1.setC2 true
      else go (u.st 0) (u.drawC30.drawC2.setC2 false) := by
  obtain ⟨-, -, -, hn⟩ := normal_class hx
  have he' : u.drawC30.drawC2.stEmpty 0 = false := he
  have hfull' : u.drawC30.drawC2.full7 = false := hfull
  simp only [trigTwo, oneOperandPush, hfull', Bool.and_false, Bool.false_eq_true, if_false]
  rw [oneOperand_number he' hn]
  exact trigNumber_normal hx

theorem exponential_normal (he : u.stEmpty 0 = false) (hx : classify (u.st 0) = .normal) (hone : cmpOne (u.st 0) ≠ .gt) :
    exponential u = u.drawC320.deliverTrans (u.phys 0) (u.drawC320.trans .f2xm1 (u.st 0) (u.st 0))
      (u.drawC320.transUp .f2xm1 (u.st 0) (u.st 0)) := by
  obtain ⟨hz, hi, hd, hn⟩ := normal_class hx
  have hgo : exponential u = _ := oneOperand_number (s := u.drawC320) he hn
  rw [hgo]
  have hst : u.drawC320.st 0 = u.st 0 := rfl
  simp only [hst, hz, hi, Bool.false_eq_true, if_false]
  rw [denormThen_of_eq_false hd, if_neg hone]
  rfl

end Bodies

theorem trigSmall_quiet (u : State) : u.Quiet (u.drawC30.drawC2.setC2 false) := ⟨⟨rfl, rfl, rfl⟩, rfl, rfl⟩
theorem trigLarge_quiet (u : State) : u.Quiet (u.drawC30.drawC2.drawC1.setC2 true) := ⟨⟨rfl, rfl, rfl⟩, rfl, rfl⟩

theorem framed_sine : Framed sine := framed_of_leads fun _ => sine_leads (List.mem_finRange _)
theorem framed_cosine : Framed cosine := framed_of_leads fun _ => cosine_leads (List.mem_finRange _)
theorem framed_sineCosine : Framed sineCosine :=
  framed_of_leads fun _ => sineCosine_leads (List.mem_finRange _) (List.mem_finRange _)
theorem framed_tangent : Framed tangent :=
  framed_of_leads fun _ => tangent_leads (List.mem_finRange _) (List.mem_finRange _)

theorem framed_exponential : Framed exponential :=
  framed_of_leads fun _ => exponential_leads (List.mem_finRange _) (List.mem_singleton.mpr rfl)

/-! ## Operands out of range (R301) -/

/-- An instruction that answers an operand out of range. -/
theorem tooLarge_of_runs {s : State} {i : Instr} {body : State → State} (hrun : Runs i s body) (hframed : Framed body)
    (hx : classify (s.st 0) = .normal) (hlarge : 2 ^ (63 : ℤ) ≤ |(s.st 0).val|)
    (hbody : ∀ u, s.Begun u i → outOfRange (u.st 0) = true → body u = u.drawC30.drawC2.drawC1.setC2 true) :
    ∃ t, exec i s = .next t ∧ t.sw.c2 = true ∧ s.Raised t [] ∧ s.KeepsRegs t [] ∧ s.Popped t none 0
      ∧ s.KeepsMemory t [] ∧ s.CompletedNumeric t i := by
  obtain ⟨u, hb, hexec, hmem, hcompleted⟩ := hrun.framed hframed
  rw [hbody u hb (by rw [hb.st]; exact (outOfRange_iff hx).mpr hlarge)] at hexec hmem hcompleted
  have hq := trigLarge_quiet u
  obtain ⟨hregs, -, hpopped⟩ := hq.toSteady.left
  exact ⟨_, hexec, rfl, hb.raised (hq.raised (raised_nil _)), hb.keepsRegs hregs, hb.popped hpopped, hmem, hcompleted⟩

/-- Settles O50. -/
theorem trigonometricOperandTooLarge : Obligations.TrigonometricOperandTooLarge := by
  intro q s i hi hr he hfull hx hlarge
  have one : ∀ (u : State) (go : Ext → State → State), s.Begun u i → outOfRange (u.st 0) = true →
      trigOne go u = u.drawC30.drawC2.drawC1.setC2 true := fun u go hb hout => by
    rw [trigOne_normal ((hb.stEmpty 0).trans he) (by rwa [hb.st]), if_pos hout]
  have two : ∀ (u : State) (go : Ext → State → State), s.Begun u i → outOfRange (u.st 0) = true →
      trigTwo go u = u.drawC30.drawC2.drawC1.setC2 true := fun u go hb hout => by
    rw [trigTwo_normal ((hb.stEmpty 0).trans he) (hb.full7.trans hfull) (by rwa [hb.st]), if_pos hout]
  rcases hi with rfl | rfl | rfl | rfl
  · have hrun : Runs (.fsin q) s sine := runs_numReg rfl rfl hr
    exact tooLarge_of_runs hrun framed_sine hx hlarge fun u => one u _
  · have hrun : Runs (.fcos q) s cosine := runs_numReg rfl rfl hr
    exact tooLarge_of_runs hrun framed_cosine hx hlarge fun u => one u _
  · have hrun : Runs (.fptan q) s tangent := runs_numReg rfl rfl hr
    exact tooLarge_of_runs hrun framed_tangent hx hlarge fun u => two u _
  · have hrun : Runs (.fsincos q) s sineCosine := runs_numReg rfl rfl hr
    exact tooLarge_of_runs hrun framed_sineCosine hx hlarge fun u => two u _

/-! ## One result (R302, R303, R310) -/

/-- An instruction whose body replaces ST by the delivery of its function. -/
theorem replaced_of_runs {s : State} {i : Instr} {body : State → State} {op : TransOp} {f : State → State}
    (hrun : RunsTo (exec i s) i s body) (hframed : Framed body) (he : s.stEmpty 0 = false)
    (hquiet : ∀ u : State, u.Quiet (f u)) (hparams : ∀ u : State, (f u).params = u.params)
    (hc2 : op ≠ .f2xm1 → ∀ u, (f u).sw.c2 = false)
    (hbody : ∀ u, s.Begun u i → body u =
      (f u).deliverTrans (u.phys 0) ((f u).trans op (u.st 0) (u.st 0)) ((f u).transUp op (u.st 0) (u.st 0))) :
    ∃ t, exec i s = .next t ∧ deliveredTrans s t (s.phys 0) op (s.st 0) (s.st 0) ∧ t.sw.top = s.sw.top
      ∧ (op ≠ .f2xm1 → t.sw.c2 = false) ∧ s.KeepsRegs t [s.phys 0] ∧ s.KeepsTags t [] ∧ s.KeepsMemory t []
      ∧ s.CompletedNumeric t i := by
  obtain ⟨u, hb, hexec, hmem, hcompleted⟩ := hrun.framed hframed
  rw [hbody u hb, hb.st, hb.phys] at hexec hmem hcompleted
  obtain ⟨hd, hkeptC2, hregs, hpopped⟩ :=
    hb.deliverTrans_put (hquiet u) (hparams u) pops_id (s.phys 0) op (s.st 0) (s.st 0)
  obtain ⟨htop, htags⟩ := popped_none he hpopped
  refine ⟨_, hexec, hd, by simpa using htop, fun hop => hkeptC2.trans (hc2 hop u), hregs, fun k _ => ?_, hmem, hcompleted⟩
  simpa using htags k

/-- Settles O48. -/
theorem oneOperandFunctionsReplaceSt : Obligations.OneOperandFunctionsReplaceSt := by
  intro q s i op hi hr he hx
  have hz : ∀ u, s.Begun u i → (u.st 0).isZero = false := fun u hb => by
    rw [hb.st]
    exact (normal_class hx).1
  have small : ∀ (u : State) (go : Ext → State → State), s.Begun u i → |(s.st 0).val| < 2 ^ (63 : ℤ) →
      trigOne go u = go (u.st 0) (u.drawC30.drawC2.setC2 false) := fun u go hb hlt => by
    rw [trigOne_normal ((hb.stEmpty 0).trans he) (by rwa [hb.st]), if_neg]
    rw [hb.st, outOfRange_iff hx]
    exact not_le.mpr hlt
  rcases hi with ⟨rfl, rfl, hlt⟩ | ⟨rfl, rfl, hlt⟩ | ⟨rfl, rfl, hle⟩
  · have hrun : Runs (.fsin q) s sine := runs_numReg rfl rfl hr
    refine replaced_of_runs hrun framed_sine he trigSmall_quiet (fun _ => rfl) (fun _ _ => rfl) fun u hb => ?_
    exact (small u _ hb hlt).trans (if_neg (Bool.eq_false_iff.mp (hz u hb)))
  · have hrun : Runs (.fcos q) s cosine := runs_numReg rfl rfl hr
    refine replaced_of_runs hrun framed_cosine he trigSmall_quiet (fun _ => rfl) (fun _ _ => rfl) fun u hb => ?_
    exact (small u _ hb hlt).trans (if_neg (Bool.eq_false_iff.mp (hz u hb)))
  · have hrun : Runs (.f2xm1 q) s exponential := runs_numReg rfl rfl hr
    refine replaced_of_runs hrun framed_exponential he drawC320_quiet (fun _ => rfl) (fun hop => absurd rfl hop)
      fun u hb => ?_
    refine exponential_normal ((hb.stEmpty 0).trans he) (by rwa [hb.st]) ?_
    rw [hb.st, cmpOne_eq]
    exact not_lt.mpr hle ∘ compare_gt_iff_gt.mp

end Sys2Proof.Machine

/-! # FPTAN and FSINCOS, and FPATAN, FYL2X and FYL2XP1 (O49, O51) -/

namespace Sys2Proof.Machine

open Config (TransOp)

/-! ## A delivery and a push (R304, R305) -/

/-- From `s`, the function `op` of `x` is delivered in ST's register, and `top` pushed. -/
structure TwoResults (s w : State) (op : TransOp) (x top : Ext) : Prop where
  delivered : deliveredTrans s w (s.phys 0) op x x
  st0 : w.st 0 = top
  c2 : w.sw.c2 = false
  top : w.sw.top = s.sw.top - 1
  nonempty : w.stEmpty 0 = false
  regs : s.KeepsRegs w [s.phys 0, s.phys 7]
  tags : s.KeepsTags w [s.phys 7]
  cw : w.cw = s.cw

section

variable {s u t w : State} {i : Instr} {op : TransOp} {x top : Ext}

theorem deliverTrans_cw (t : State) (k : Fin 8) (v : Bool × Mag) (up : Bool) : (t.deliverTrans k v up).cw = t.cw :=
  raiseAll_cw t (deliver t.cw t.params.tinyBefore v.1 v.2 64 t.rc).flags

theorem deliverTrans_spec_of_quiet (h : s.Quiet t) (k : Fin 8) (v : Bool × Mag) (up : Bool) :
    ∃ w val, s.Steady w ∧ w.sw.c2 = t.sw.c2 ∧ w.cw = s.cw ∧ t.deliverTrans k v up = w.putReg k val := by
  obtain ⟨w, hw, hc2, heq⟩ := deliverTrans_eq_putReg t k v up
  refine ⟨w, _, ⟨hw.regs.trans h.regs, hw.empty.trans h.empty, hw.top.trans h.top⟩, hc2, ?_, heq⟩
  have hcw := (deliverTrans_cw t k v up).trans h.cw
  rwa [heq] at hcw

theorem twoResults_of_put (h : s.Steady w) (he : s.stEmpty 0 = false) (hc2 : w.sw.c2 = false) (hcw : w.cw = s.cw)
    {val : Ext} (hd : deliveredTrans s (w.putReg (s.phys 0) val) (s.phys 0) op x x) :
    TwoResults s ((w.putReg (s.phys 0) val).push top) op x top := by
  obtain ⟨htop, hst0, he0, -, -, hreg, hregs, htags⟩ := put_push_spec h he val top
  have hput : (w.putReg (s.phys 0) val).reg (s.phys 0) = val := by rw [reg_putReg, if_pos rfl]
  exact ⟨deliveredTrans_congr hd (hreg.trans hput.symm) rfl rfl, hst0, hc2, htop, he0, hregs, htags, hcw⟩

theorem deliverTrans_push (h : s.Quiet t) (hp : t.params = s.params) (hc2 : t.sw.c2 = false) (he : s.stEmpty 0 = false)
    (op : TransOp) (x top : Ext) :
    TwoResults s ((t.deliverTrans (s.phys 0) (t.trans op x x) (t.transUp op x x)).push top) op x top := by
  have hd := deliveredTrans_of_quiet h hp (s.phys 0) op x x
  obtain ⟨w, val, hw, hwc2, hcw, heq⟩ := deliverTrans_spec_of_quiet h (s.phys 0) (t.trans op x x) (t.transUp op x x)
  rw [heq] at hd ⊢
  exact twoResults_of_put hw he (hwc2.trans hc2) hcw hd

/-- PE raised a second time. -/
theorem TwoResults.raise_pe (h : TwoResults s w op x top) :
    TwoResults s (w.raise .pe) op x top := by
  have hsteady : w.Steady (w.raise .pe) := (⟨rfl, rfl, rfl⟩ : w.Steady w).raise .pe
  obtain ⟨⟨hreg, hraised, hc1⟩, hst0, hc2, htop, he0, hregs, htags, hcw⟩ := h
  have hc1' : (w.raise .pe).sw.c1 = w.sw.c1 := rfl
  refine ⟨⟨(hsteady.reg _).trans hreg, ?_, hc1'.trans hc1⟩, (hsteady.st 0).trans hst0, (raise_c2 w .pe).trans hc2,
    hsteady.top.trans htop, (hsteady.stEmpty 0).trans he0, fun k hk => (hsteady.reg k).trans (hregs k hk),
    fun k hk => (hsteady.isEmpty k).trans (htags k hk), hcw⟩
  obtain ⟨hflag, hsf, hes, hbusy⟩ := Raised_trans hcw hraised (raise_raised w .pe)
  exact ⟨fun y => (hflag y).trans (by simp), hsf, hes.trans (by simp), hbusy.trans (by simp)⟩

theorem TwoResults.of_begun (hb : s.Begun u i) (h : TwoResults u w op x top) : TwoResults s (w.advance i) op x top := by
  obtain ⟨hd, hst0, hc2, htop, he0, hregs, htags, hcw⟩ := h
  simp only [hb.phys, hb.sw] at hd htop hregs htags
  exact ⟨hb.deliveredTrans_of hd, hst0, hc2, htop, he0, hb.keepsRegs hregs, hb.keepsTags htags,
    hcw.trans hb.cw⟩

/-- An instruction whose body delivers its function and pushes a second result. -/
theorem pushes_of_runs {body : State → State} (hrun : Runs i s body) (hframed : Framed body)
    (hbody : ∀ u, s.Begun u i → TwoResults u (body u) op (s.st 0) top) :
    ∃ t, exec i s = .next t ∧ deliveredTrans s t (s.phys 0) op (s.st 0) (s.st 0) ∧ t.st 0 = top
      ∧ t.sw.c2 = false ∧ t.sw.top = s.sw.top - 1 ∧ t.stEmpty 0 = false
      ∧ s.KeepsRegs t [s.phys 0, s.phys 7] ∧ s.KeepsTags t [s.phys 7] ∧ s.KeepsMemory t [] ∧ s.CompletedNumeric t i := by
  obtain ⟨u, hb, hexec, hmem, hcompleted⟩ := hrun.framed hframed
  obtain ⟨hd, hst0, hc2, htop, he0, hregs, htags, -⟩ := TwoResults.of_begun hb (hbody u hb)
  exact ⟨_, hexec, hd, hst0, hc2, htop, he0, hregs, htags, hmem, hcompleted⟩

end

/-- Settles O49. -/
theorem twoResultFunctionsPush : Obligations.TwoResultFunctionsPush := by
  intro q s i op top hi hr he hfull hx hlt
  have hz : (s.st 0).isZero = false := (normal_class hx).1
  have small : ∀ (u : State) (go : Ext → State → State), s.Begun u i →
      trigTwo go u = go (s.st 0) (u.drawC30.drawC2.setC2 false) := fun u go hb => by
    rw [trigTwo_normal ((hb.stEmpty 0).trans he) (hb.full7.trans hfull) (by rwa [hb.st]), hb.st, if_neg]
    rw [outOfRange_iff hx]
    exact not_le.mpr hlt
  have two : ∀ (u : State) (op : TransOp) (top : Ext), s.Begun u i → TwoResults u _ op (s.st 0) top := fun u op top hb =>
    deliverTrans_push (trigSmall_quiet u) rfl rfl ((hb.stEmpty 0).trans he) op (s.st 0) top
  rcases hi with ⟨rfl, rfl, rfl⟩ | ⟨rfl, rfl, v, rfl, rfl⟩
  · have hrun : Runs (.fptan q) s tangent := runs_numReg rfl rfl hr
    refine pushes_of_runs hrun framed_tangent fun u hb => ?_
    have hbody : tangent u = _ := (small u _ hb).trans (if_neg (Bool.eq_false_iff.mp hz))
    rw [hbody]
    exact two u .fptan (oneExt false) hb
  · have hrun : Runs (.fsincos q) s sineCosine := runs_numReg rfl rfl hr
    refine pushes_of_runs hrun framed_sineCosine fun u hb => ?_
    have hbody : sineCosine u = _ := (small u _ hb).trans (if_neg (Bool.eq_false_iff.mp hz))
    have hrc : (u.drawC30.drawC2.setC2 false).rc = s.rc := (trigSmall_quiet u).rc.trans hb.rc
    have hcos : State.trans (u.drawC30.drawC2.setC2 false) .fsincosCos (s.st 0) (s.st 0) =
        transValue .fsincosCos (s.st 0) (s.st 0) s.rc := by rw [State.trans, hrc]
    rw [hbody, hcos]
    exact (two u .fsincosSin _ hb).raise_pe

/-! ## Two operands (R309, R311, R312) -/

section Bodies

variable {u : State} (h0 : u.stEmpty 0 = false) (h1 : u.stEmpty 1 = false) (hx : classify (u.st 0) = .normal)
  (hy : classify (u.st 1) = .normal)
include h0 h1 hx hy

/-- The function `op` of ST(1) and ST, delivered in ST(1), and a pop. -/
def poppedFunction (op : TransOp) (u : State) : State :=
  (u.drawC320.deliverTrans (u.phys 1) (u.drawC320.trans op (u.st 1) (u.st 0)) (u.drawC320.transUp op (u.st 1) (u.st 0))).pop

theorem arctangent_normal : arctangent u = poppedFunction .fpatan u := by
  obtain ⟨hxz, hxi, hxd, hxn⟩ := normal_class hx
  obtain ⟨hyz, hyi, hyd, hyn⟩ := normal_class hy
  have hgo : arctangent u = _ := twoOperands_numbers (s := u.drawC320) h0 h1 hxn hyn
  have hst : u.drawC320.st 0 = u.st 0 := rfl
  have hst1 : u.drawC320.st 1 = u.st 1 := rfl
  have hrow : atanRow (u.st 1) (u.st 0) = .computed := by
    simp only [atanRow, hxz, hxi, hyz, hyi, Bool.false_eq_true, if_false]
  rw [hgo, hst, hst1, denormThen_of_eq_false (by rw [hxd, hyd]; rfl), hrow]
  rfl

theorem logarithm_normal (hs : (u.st 0).sign = false) (hone : cmpOne (u.st 0) ≠ .eq) :
    logarithm u = poppedFunction .fyl2x u := by
  obtain ⟨hxz, hxi, hxd, hxn⟩ := normal_class hx
  obtain ⟨hyz, hyi, hyd, hyn⟩ := normal_class hy
  have hgo : logarithm u = _ := twoOperands_numbers (s := u.drawC320) h0 h1 hxn hyn
  have hst : u.drawC320.st 0 = u.st 0 := rfl
  have hst1 : u.drawC320.st 1 = u.st 1 := rfl
  have hinvalid : logInvalid (u.st 0) (u.st 1) = false := by simp [logInvalid, hs, hyz, hyi]
  have hspecial : logSpecial (u.st 0) (u.st 1) = none := by simp [logSpecial, hyi, hxi, hyz, hone]
  rw [hgo]
  simp only [hst, hst1, hinvalid, hxz, Bool.false_and, Bool.false_eq_true, if_false]
  rw [denormThen_of_eq_false (by rw [hxd, hyd]; rfl), hspecial]
  rfl

theorem logarithmPlusOne_normal (hlt : cmpOne (u.st 0) = .lt) (hrange : inLog1pRange (u.st 0) = true) :
    logarithmPlusOne u = poppedFunction .fyl2xp1 u := by
  obtain ⟨hxz, hxi, hxd, hxn⟩ := normal_class hx
  obtain ⟨hyz, hyi, hyd, hyn⟩ := normal_class hy
  have hgo : logarithmPlusOne u = _ := twoOperands_numbers (s := u.drawC320) h0 h1 hxn hyn
  have hst : u.drawC320.st 0 = u.st 0 := rfl
  have hst1 : u.drawC320.st 1 = u.st 1 := rfl
  have hinvalid : log1pInvalid (u.st 0) (u.st 1) = false := by
    simp only [log1pInvalid, hlt, hyz, hyi]
    cases (u.st 0).sign <;> rfl
  have hspecial : log1pSpecial (u.st 0) (u.st 1) = none := by simp [log1pSpecial, hxz, hxi, hyi, hyz]
  rw [hgo]
  simp only [hst, hst1, hinvalid, Bool.false_eq_true, if_false]
  rw [denormThen_of_eq_false (by rw [hxd, hyd]; rfl), hspecial]
  exact if_pos hrange

end Bodies

theorem framed_arctangent : Framed arctangent := framed_of_leads' fun _ h _ => arctangent_leads (h _) (finish_leads h 1)
theorem framed_logarithm : Framed logarithm := framed_of_leads' fun _ h _ => logarithm_leads (h _) (finish_leads h 1)
theorem framed_logarithmPlusOne : Framed logarithmPlusOne :=
  framed_of_leads' fun _ h hpe => logarithmPlusOne_leads (h _) (finish_leads h 1) hpe

/-- The range of R312, on the value. -/
theorem inLog1pRange_of {x : Ext} (h : 2 * (1 - |x.val|) ^ 2 > 1) (hlt : |x.val| < 1) : inLog1pRange x = true := by
  obtain ⟨hd, -⟩ := addSigned_val false { n := 1, k := 0 } true x.mag
  have hsq : (Mag.addSigned false { n := 1, k := 0 } true x.mag).2.val ^ 2 = (1 - |x.val|) ^ 2 := by
    have hone : Mag.val { n := 1, k := 0 } = 1 := by simp [Mag.val]
    rw [hone, ← Ext.abs_val] at hd
    generalize Mag.addSigned false { n := 1, k := 0 } true x.mag = d at *
    have hsign : signOf d.1 ^ 2 = 1 := by rw [sq, signOf_mul_self]
    have hsquared : signOf d.1 ^ 2 * d.2.val ^ 2 = (signOf false * 1 + signOf true * |x.val|) ^ 2 := by rw [← mul_pow, hd]
    rw [hsign, one_mul] at hsquared
    rw [hsquared]
    simp only [signOf, Bool.false_eq_true, if_false, if_true]
    ring
  have hcmp : cmpOne x = .lt := by
    rw [cmpOne_eq]
    exact compare_lt_iff_lt.mpr hlt
  simp only [inLog1pRange, hcmp, mag_cmp, mag_scale_val, mag_mul_val]
  rw [← sq, hsq]
  have : compare ((1 - |x.val|) ^ 2 * 2 ^ (1 : ℤ)) (Mag.val { n := 1, k := 0 }) = .gt := by
    rw [compare_gt_iff_gt]
    simp only [Mag.val]
    norm_num
    linarith
  rw [this]
  rfl

/-- An instruction whose body replaces ST(1) by the delivery of its function and pops. -/
theorem poppedFunction_of_runs {s : State} {i : Instr} {op : TransOp} {body : State → State} (hrun : Runs i s body)
    (hframed : Framed body) (hbody : ∀ u, s.Begun u i → body u = poppedFunction op u) :
    ∃ t, exec i s = .next t ∧ deliveredTrans s t (s.phys 1) op (s.st 1) (s.st 0)
      ∧ s.KeepsRegs t [s.phys 1] ∧ s.Popped t (some (s.phys 1)) 1 ∧ s.KeepsMemory t [] ∧ s.CompletedNumeric t i := by
  obtain ⟨u, hb, hexec, hmem, hcompleted⟩ := hrun.framed hframed
  rw [hbody u hb, poppedFunction, hb.st, hb.st, hb.phys] at hexec hmem hcompleted
  obtain ⟨hd, -, hregs, hpopped⟩ :=
    hb.deliverTrans_put (drawC320_quiet u) rfl pops_pop (s.phys 1) op (s.st 1) (s.st 0)
  exact ⟨_, hexec, hd, hregs, hpopped, hmem, hcompleted⟩

/-- Settles O51. -/
theorem twoOperandFunctionsPop : Obligations.TwoOperandFunctionsPop := by
  intro q s i op hi hr h0 h1 hx hy
  rcases hi with ⟨rfl, rfl⟩ | ⟨rfl, rfl, hpos, hone⟩ | ⟨rfl, rfl, hrange, hlt⟩
  · have hrun : Runs (.fpatan q) s arctangent := runs_numReg rfl rfl hr
    exact poppedFunction_of_runs hrun framed_arctangent fun u hb =>
      arctangent_normal ((hb.stEmpty 0).trans h0) ((hb.stEmpty 1).trans h1) (by rwa [hb.st]) (by rwa [hb.st])
  · have hrun : Runs (.fyl2x q) s logarithm := runs_numReg rfl rfl hr
    refine poppedFunction_of_runs hrun framed_logarithm fun u hb =>
      logarithm_normal ((hb.stEmpty 0).trans h0) ((hb.stEmpty 1).trans h1) (by rwa [hb.st]) (by rwa [hb.st]) ?_ ?_
    · rw [hb.st]
      exact sign_of_val hpos (by simp [signOf])
    · rw [hb.st, cmpOne_eq, abs_of_pos hpos]
      exact hone ∘ compare_eq_iff_eq.mp
  · have hrun : Runs (.fyl2xp1 q) s logarithmPlusOne := runs_numReg rfl rfl hr
    refine poppedFunction_of_runs hrun framed_logarithmPlusOne fun u hb =>
      logarithmPlusOne_normal ((hb.stEmpty 0).trans h0) ((hb.stEmpty 1).trans h1) (by rwa [hb.st]) (by rwa [hb.st]) ?_ ?_
    · rw [hb.st, cmpOne_eq]
      exact compare_lt_iff_lt.mpr hlt
    · rw [hb.st]
      exact inLog1pRange_of hrange hlt

end Sys2Proof.Machine

/-! # The value of a transcendental lies within the bound (O47) -/

namespace Sys2Proof.Machine

/-- The bound of R300 (b), on the values. -/
theorem withinBound_iff (b : Bracket) (v : Mag) : withinBound b v = true ↔ inBound b v.val := by
  have hlow : Mag.val { n := 2 ^ 62 - 1, k := -62 } = 1 - 2 ^ (-62 : ℤ) := by norm_num [Mag.val]
  have hhigh : Mag.val { n := 2 ^ 62 + 1, k := -62 } = 1 + 2 ^ (-62 : ℤ) := by norm_num [Mag.val]
  unfold withinBound inBound
  simp only [mag_cmp, mag_mul_val, hlow, hhigh, Bool.and_eq_true, beq_iff_eq, compare_lt_iff_lt]
  rfl

theorem lower_le_upper {b : Bracket} (h : b.lo ≤ b.hi) : b.lower.val ≤ b.upper.val := by
  have hle : Mag.val { n := b.lo, k := -(refBits : ℤ) } ≤ Mag.val { n := b.hi, k := -(refBits : ℤ) } :=
    mul_le_mul_of_nonneg_right (by exact_mod_cast h) (by positivity)
  unfold Bracket.lower Bracket.upper
  rw [mag_mul_val, mag_mul_val]
  exact mul_le_mul_of_nonneg_left hle b.num.val_nonneg

theorem splitAt_val_bounds {m : Mag} (h : m.more = false) (t : ℤ) :
    ((splitAt m t).1 : ℚ) * 2 ^ t ≤ m.val ∧ m.val < ((splitAt m t).1 + 1) * 2 ^ t := by
  have hb := splitAt_bounds (t := t) (Mag.denotes_val h) fun hc => by rw [h] at hc; cases hc
  exact ⟨(Rat.cast_le (K := ℝ)).mp (by push_cast; exact hb.1), (Rat.cast_lt (K := ℝ)).mp (by push_cast; exact hb.2)⟩

/-- The 64 leading bits of a quotient that has been chopped to more than 127 bits, against the quotient `r`. -/
theorem chopped_bounds {q : Mag} {r : ℚ} (hq : q.more = false) (hbits : 127 ≤ q.n.log2) (hlo : q.val ≤ r)
    (hhi : r < q.val + 2 ^ q.k) :
    (splitAt q (q.log2 - 63)).1 < 2 ^ 64 ∧ ((splitAt q (q.log2 - 63)).1 : ℚ) * 2 ^ (q.log2 - 63) ≤ r
      ∧ r * (1 - 2 ^ (-62 : ℤ)) < (splitAt q (q.log2 - 63)).1 * 2 ^ (q.log2 - 63) := by
  have hn : q.n ≠ 0 := fun h0 => by
    rw [h0] at hbits
    exact absurd hbits (by decide)
  obtain ⟨hval, hval'⟩ := Mag.val_log2_bounds hn
  obtain ⟨hs, hs'⟩ := splitAt_val_bounds hq (q.log2 - 63)
  have ht : (0 : ℚ) < 2 ^ (q.log2 - 63) := by positivity
  have hk : (2 : ℚ) ^ q.k ≤ 2 ^ (q.log2 - 63) := zpow_le_zpow_right₀ one_le_two (by unfold Mag.log2; omega)
  have h63 : (2 : ℚ) ^ q.log2 = 2 ^ 63 * 2 ^ (q.log2 - 63) := by
    rw [← zpow_natCast, ← zpow_add₀ two_ne_zero]
    congr 1
    omega
  have h64 : (2 : ℚ) ^ (q.log2 + 1) = 2 ^ 64 * 2 ^ (q.log2 - 63) := by
    rw [← zpow_natCast, ← zpow_add₀ two_ne_zero]
    congr 1
    push_cast
    omega
  rw [h63] at hval
  rw [h64] at hval'
  generalize (2 : ℚ) ^ (q.log2 - 63) = unit at *
  refine ⟨?_, hs.trans hlo, ?_⟩
  · have hlt := lt_of_mul_lt_mul_right (hs.trans_lt hval') ht.le
    exact_mod_cast hlt
  · norm_num
    linarith

/-- A quotient of integers, the dividend shifted by the bits of the divisor and 128 more. -/
theorem shifted_quotient_bits {n d : ℕ} (hn : n ≠ 0) (hd : d ≠ 0) : 127 ≤ ((n <<< (d.log2 + 128)) / d).log2 := by
  have hlarge : 2 ^ 127 ≤ (n <<< (d.log2 + 128)) / d := by
    rw [Nat.le_div_iff_mul_le (Nat.pos_of_ne_zero hd), Nat.shiftLeft_eq]
    calc 2 ^ 127 * d ≤ 2 ^ 127 * 2 ^ (d.log2 + 1) := Nat.mul_le_mul_left _ d.lt_log2_self.le
      _ = 1 * 2 ^ (d.log2 + 128) := by rw [← pow_add, one_mul]; congr 1; omega
      _ ≤ n * 2 ^ (d.log2 + 128) := Nat.mul_le_mul_right _ (Nat.pos_of_ne_zero hn)
  exact (Nat.le_log2 (by omega)).mpr hlarge

/-- The quotient of two magnitudes, chopped after a shift of the dividend. -/
theorem shifted_quotient_val (l d : Mag) (hd : d.n ≠ 0) (w : ℕ) :
    let q : Mag := { n := (l.n <<< w) / d.n, k := l.k - w - d.k }
    q.val ≤ l.val / d.val ∧ l.val / d.val < q.val + 2 ^ q.k := by
  intro q
  have hd0 : 0 < d.n := Nat.pos_of_ne_zero hd
  have hdq : (0 : ℚ) < d.n := by exact_mod_cast hd0
  have hval : l.val / d.val = (l.n <<< w : ℕ) / d.n * 2 ^ q.k := by
    unfold Mag.val
    rw [show q.k = l.k - w - d.k from rfl, Nat.shiftLeft_eq, zpow_sub₀ two_ne_zero, zpow_sub₀ two_ne_zero, zpow_natCast]
    push_cast
    field_simp
  have hlt : l.n <<< w < (q.n + 1) * d.n := by
    rw [mul_comm]
    exact Nat.lt_mul_div_succ _ hd0
  have hk : (0 : ℚ) < 2 ^ q.k := by positivity
  rw [hval, show q.val = q.n * 2 ^ q.k from rfl, ← add_one_mul]
  refine ⟨mul_le_mul_of_nonneg_right Nat.cast_div_le hk.le, mul_lt_mul_of_pos_right ?_ hk⟩
  rw [div_lt_iff₀ hdq]
  exact_mod_cast hlt

/-- The quotient of which `choppedLower` takes the leading bits. -/
theorem choppedLower_spec {b : Bracket} (hl : b.lower.n ≠ 0) (hd : b.den.n ≠ 0) :
    ∃ q : Mag, choppedLower b = { n := (splitAt q (q.log2 - 63)).1, k := q.log2 - 63 } ∧ q.more = false
      ∧ 127 ≤ q.n.log2 ∧ q.val ≤ b.lower.val / b.den.val ∧ b.lower.val / b.den.val < q.val + 2 ^ q.k :=
  ⟨_, rfl, rfl, shifted_quotient_bits hl hd, shifted_quotient_val b.lower b.den hd _⟩

/-- Settles O47: an offer within the bound is taken; the chopped lower end is within the bound. -/
theorem transcendentalValueIsWithinTheBound : Obligations.TranscendentalValueIsWithinTheBound := by
  intro op y x rc offer b hl hd hle
  have hd0 : 0 < b.den.val := lt_of_le_of_ne b.den.val_nonneg (Ne.symm (mt Mag.val_eq_zero.mp hd))
  have hl0 : 0 < b.lower.val := lt_of_le_of_ne b.lower.val_nonneg (Ne.symm (mt Mag.val_eq_zero.mp hl))
  have hoffer : ∀ v : Mag, v = { n := offer.1.toNat, k := offer.2 } → inBound b (offer.1.toNat * 2 ^ offer.2) →
      withinBound b v = true := fun v hv h => by
    subst hv
    exact (withinBound_iff b _).mpr h
  refine ⟨rfl, ?_⟩
  rcases choose_cases b offer with ⟨hin, hchoose⟩ | ⟨hout, hchoose⟩
  · rw [hchoose]
    exact ⟨offer.1.isLt, rfl, (withinBound_iff b _).mp hin, fun _ => rfl⟩
  · obtain ⟨q, hq, hmore, hbits, hlo, hhi⟩ := choppedLower_spec hl hd
    obtain ⟨hlt, hle', hgt⟩ := chopped_bounds hmore hbits hlo hhi
    rw [hchoose, hq]
    refine ⟨hlt, rfl, ?_, fun h => by rw [hoffer _ rfl h] at hout; cases hout⟩
    rw [div_mul_eq_mul_div, div_lt_iff₀ hd0] at hgt
    rw [le_div_iff₀ hd0] at hle'
    refine ⟨hgt, hle'.trans_lt ((lower_le_upper hle).trans_lt ?_)⟩
    exact lt_mul_of_one_lt_right (hl0.trans_le (lower_le_upper hle)) (by norm_num)

end Sys2Proof.Machine

/-! # The images of environment and state (R70 to R76)

What each field of an image holds, in each of the four formats. -/

namespace Sys2Proof.Machine

/-! ## Fields of a byte string -/

section Fields

variable {xs ys : List Byte} {off n v : ℕ}

theorem field_append_left (h : off + n ≤ xs.length) : field (xs ++ ys) off n = field xs off n := by
  rw [field, field, List.drop_append_of_le_length (by omega), List.take_append_of_le_length]
  rw [List.length_drop]
  omega

theorem field_append_right (h : xs.length ≤ off) : field (xs ++ ys) off n = field ys (off - xs.length) n := by
  rw [field, field, List.drop_append, List.drop_eq_nil_of_le h, List.nil_append]

/-- A field after a field of `k` bytes. -/
theorem field_leBytes_skip {k : ℕ} (h : k ≤ off) : field (leBytes k v ++ ys) off n = field ys (off - k) n := by
  have hlen : (leBytes k v).length = k := leBytes_length k v
  rw [field_append_right (hlen.le.trans h), hlen]

theorem field_leBytes : field (leBytes n v) 0 n = v % 256 ^ n := by
  rw [field, List.drop_zero, List.take_of_length_le (leBytes_length n v).le, leNat_leBytes]

theorem field_leBytes_head : field (leBytes n v ++ ys) 0 n = v % 256 ^ n := by
  rw [field_append_left (by rw [leBytes_length, zero_add]), field_leBytes]

/-- The fields of equally long strings one after the other. -/
theorem field_flatMap {α : Type} {f : α → List Byte} {n : ℕ} (hf : ∀ a, (f a).length = n) {l : List α} {k : ℕ}
    (hk : k < l.length) : field (l.flatMap f) (n * k) n = leNat (f l[k]) := by
  induction l generalizing k with
  | nil => exact absurd hk (Nat.not_lt_zero k)
  | cons a l ih =>
    rw [List.flatMap_cons]
    cases k with
    | zero =>
      rw [mul_zero, field_append_left (by rw [hf, zero_add]), field, List.drop_zero, List.take_of_length_le (hf a).le]
      rfl
    | succ k =>
      rw [field_append_right (by rw [hf]; exact Nat.le_mul_of_pos_right n k.succ_pos), hf,
        show n * (k + 1) - n = n * k by rw [mul_add, mul_one]; omega]
      exact ih (Nat.lt_of_succ_lt_succ hk)

end Fields

/-- A field of a stored operand. -/
theorem imageField_eq {s t : State} {q : List Prefix} {m : MemOp} {bs : List Byte} {size off n : ℕ}
    (h : readBytes t.mem (s.placeAddrs (s.place q m) size) = bs) (hle : off + n ≤ size) :
    imageField s t q m off n = field bs off n := by
  have haddrs : s.placeAddrs (s.place q m) (off + n) = (s.placeAddrs (s.place q m) size).take (off + n) := by
    simp only [State.placeAddrs, State.addrs, ← List.map_take, List.take_range, min_eq_left hle]
  rw [imageField, haddrs, ← h, field, readBytes, readBytes, List.take_drop, List.map_drop, List.map_take]

/-! ## The tag word (R27, R29) -/

theorem tagOf_lt (x : Ext) : tagOf x < 3 := by
  unfold tagOf
  split <;> decide

theorem tag_lt (s : State) (k : Fin 8) : s.tag k < 4 := by
  unfold State.tag
  have := tagOf_lt (s.reg k)
  split <;> omega

theorem tag_eq_three (s : State) (k : Fin 8) : (s.tag k == 3) = s.isEmpty k := by
  have := tagOf_lt (s.reg k)
  unfold State.tag
  cases s.isEmpty k
  · simp only [Bool.false_eq_true, if_false, beq_eq_false_iff_ne]
    omega
  · rfl

theorem tagWord_lt (s : State) : s.tagWord < 2 ^ 16 := by
  have h := tag_lt s
  have h0 := h 0; have h1 := h 1; have h2 := h 2; have h3 := h 3
  have h4 := h 4; have h5 := h 5; have h6 := h 6; have h7 := h 7
  simp [State.tagWord, List.finRange_succ]
  omega

theorem tagWord_digit (s : State) (k : Fin 8) : s.tagWord / 4 ^ k.val % 4 = s.tag k := by
  have h := tag_lt s
  have h0 := h 0; have h1 := h 1; have h2 := h 2; have h3 := h 3
  have h4 := h 4; have h5 := h 5; have h6 := h 6; have h7 := h 7
  simp [State.tagWord, List.finRange_succ]
  fin_cases k <;> simp <;> omega

/-! ## The environment image (R71 to R74) -/

theorem linear_eq (p : FarPtr) : FarPtr.linear p = linearOf p := rfl

theorem linear_lt (p : FarPtr) : linearOf p < 2 ^ 32 := Nat.mod_lt _ (by positivity)

theorem envBytes_length (s : State) (d : BitVec 80) (f : ImageFormat) : (s.envBytes d f).length = f.envSize := by
  cases f <;> simp [State.envBytes, reservedWord, ImageFormat.envSize, leBytes_length]

section Fields

variable (s : State) (d : BitVec 80) (rest : List Byte)

/-- The three words with which every image begins. -/
theorem envBytes_words (f : ImageFormat) :
    let bs := s.envBytes d f ++ rest
    field bs 0 2 = s.cw.toNat ∧ field bs f.slot 2 = s.sw.toBits.toNat ∧ field bs (2 * f.slot) 2 = s.tagWord := by
  have hcw := s.cw.isLt
  have hsw := s.sw.toBits.isLt
  have htw := tagWord_lt s
  cases f <;>
    simp [State.envBytes, reservedWord, ImageFormat.slot, List.append_assoc, field_leBytes_skip, field_leBytes_head] <;>
    omega

theorem envBytes_prot32 :
    let bs := s.envBytes d .prot32 ++ rest
    field bs 12 4 = s.fip.off.toNat ∧ field bs 16 2 = s.fip.sel.toNat ∧ field bs 20 4 = s.fdp.off.toNat
      ∧ field bs 24 2 = s.fdp.sel.toNat := by
  have hip := s.fip.off.isLt
  have hcs := s.fip.sel.isLt
  have hop := s.fdp.off.isLt
  have hds := s.fdp.sel.isLt
  simp [State.envBytes, reservedWord, List.append_assoc, field_leBytes_skip, field_leBytes_head]
  omega

theorem envBytes_prot16 :
    let bs := s.envBytes d .prot16 ++ rest
    field bs 6 2 = s.fip.off.toNat % 2 ^ 16 ∧ field bs 8 2 = s.fip.sel.toNat ∧ field bs 10 2 = s.fdp.off.toNat % 2 ^ 16
      ∧ field bs 12 2 = s.fdp.sel.toNat := by
  have hcs := s.fip.sel.isLt
  have hds := s.fdp.sel.isLt
  simp [State.envBytes, List.append_assoc, field_leBytes_skip, field_leBytes_head]
  omega

theorem envBytes_real32 :
    let bs := s.envBytes d .real32 ++ rest
    field bs 12 2 = linearOf s.fip % 2 ^ 16 ∧ field bs 16 4 = linearOf s.fip / 2 ^ 16 * 2 ^ 12 + s.fop.toNat
      ∧ field bs 20 2 = linearOf s.fdp % 2 ^ 16 ∧ field bs 24 4 = linearOf s.fdp / 2 ^ 16 * 2 ^ 12 := by
  have hip := linear_lt s.fip
  have hop := linear_lt s.fdp
  have hfop := s.fop.isLt
  simp [State.envBytes, reservedWord, linear_eq, List.append_assoc, field_leBytes_skip, field_leBytes_head]
  omega

theorem envBytes_real16 :
    let bs := s.envBytes d .real16 ++ rest
    field bs 6 2 = linearOf s.fip % 2 ^ 16 ∧ field bs 8 2 = linearOf s.fip / 2 ^ 16 % 2 ^ 4 * 2 ^ 12 + s.fop.toNat
      ∧ field bs 10 2 = linearOf s.fdp % 2 ^ 16 ∧ field bs 12 2 = linearOf s.fdp / 2 ^ 16 % 2 ^ 4 * 2 ^ 12 := by
  have hfop := s.fop.isLt
  simp [State.envBytes, linear_eq, List.append_assoc, field_leBytes_skip, field_leBytes_head]
  omega

end Fields

/-! ## The registers (R75) -/

theorem extBytes_length (x : Ext) : (extBytes x).length = 10 := leBytes_length 10 _

theorem stackBytes_length (s : State) : s.stackBytes.length = 80 := by
  simp [State.stackBytes, extBytes_length]

theorem stackBytes_field (s : State) (k : Fin 8) : field s.stackBytes (10 * k.val) 10 = extToNat (s.st k) := by
  have hk : k.val < (List.finRange 8).length := by
    rw [List.length_finRange]
    exact k.isLt
  rw [State.stackBytes, field_flatMap (fun i => extBytes_length (s.st i)) hk, leNat_extBytes, List.getElem_finRange]
  rfl

theorem stateImage_length (s u : State) (d : BitVec 80) (f : ImageFormat) :
    (s.envBytes d f ++ u.stackBytes).length = f.stateSize := by
  rw [List.length_append, envBytes_length, stackBytes_length]
  rfl

/-- The state image: the environment and the registers. -/
theorem stateImage_field (s u : State) (d : BitVec 80) (f : ImageFormat) (k : Fin 8) :
    field (s.envBytes d f ++ u.stackBytes) (f.envSize + 10 * k.val) 10 = extToNat (u.st k) := by
  have hlen := envBytes_length s d f
  rw [field_append_right (hlen.le.trans (Nat.le_add_right _ _)), hlen, Nat.add_sub_cancel_left, stackBytes_field]

end Sys2Proof.Machine

/-! # FNSTENV and FNSAVE, FLDENV and FRSTOR (O56, O57, O58) -/

namespace Sys2Proof.Machine

/-! ## The images of the state that the prelude hands over -/

section Entered

variable {s u : State} (hu : s.Entered u)
include hu

theorem tagWord_of_entered : u.tagWord = s.tagWord := by
  have htag : u.tag = s.tag := funext fun k => by
    have hreg : u.reg k = s.reg k := congrArg (fun r : Vector Ext 8 => r[k]) hu.regs
    have hempty : u.isEmpty k = s.isEmpty k := congrArg (fun r : Vector Bool 8 => r[k]) hu.empty
    rw [State.tag, State.tag, hreg, hempty]
  rw [State.tagWord, State.tagWord, htag]

theorem envBytes_of_entered (d : BitVec 80) (f : ImageFormat) : u.envBytes d f = s.envBytes d f := by
  obtain ⟨hip, hdp, hop⟩ := hu.pointers
  cases f <;> simp only [State.envBytes, hu.cw, hu.sw, tagWord_of_entered hu, hip, hdp, hop]

theorem stackBytes_of_entered : u.stackBytes = s.stackBytes := by
  simp only [State.stackBytes, State.st, State.phys, State.reg, hu.regs, hu.sw]

end Entered

theorem imageFormat_of_cpu {s t : State} (h : s.KeepsCpu t) (q : List Prefix) : t.imageFormat q = s.imageFormat q := by
  obtain ⟨-, hseg, hmode, -⟩ := h
  have hcode : t.code32 = s.code32 := by rw [State.code32, State.code32, hseg, hmode]
  rw [State.imageFormat, State.imageFormat, hcode, hmode]

/-! ## What the instructions do (R340 to R343) -/

section Exec

variable {q : List Prefix} {m : MemOp} {s : State}

theorem exec_fnstenv (hr : s.Ready false) (hreach : s.Reachable q m true (s.imageFormat q).envSize) :
    ∃ u d, s.Entered u ∧ exec (.fnstenv q m) s =
      .next ((u.drew.drawC3210.maskAll.store (s.placeAddrs (s.place q m) (s.imageFormat q).envSize)
        (s.envBytes d (s.imageFormat q))).advance (.fnstenv q m)) := by
  have hu : s.Entered (s.started .saveImage (.fnstenv q m) m true (s.imageFormat q).envSize) := entered_started rfl _ _ _ _ _
  have hexec := escStore_of_ready (k := .saveImage) (.fnstenv q m) m (s.imageFormat q).envSize hr hreach fun u =>
    (u.drew.drawC3210.maskAll, some (u.envBytes (u.drawn 80) (u.imageFormat q)))
  generalize s.started .saveImage (.fnstenv q m) m true (s.imageFormat q).envSize = u at hu hexec
  refine ⟨u, u.drawn 80, hu, hexec.trans ?_⟩
  simp only [envBytes_of_entered hu, imageFormat_of_cpu hu.cpu]
  rfl

theorem exec_fnsave (hr : s.Ready false) (hreach : s.Reachable q m true (s.imageFormat q).stateSize) :
    ∃ u d, s.Entered u ∧ exec (.fnsave q m) s =
      .next ((u.drew.initNpx.store (s.placeAddrs (s.place q m) (s.imageFormat q).stateSize)
        (s.envBytes d (s.imageFormat q) ++ s.stackBytes)).advance (.fnsave q m)) := by
  have hu : s.Entered (s.started .saveImage (.fnsave q m) m true (s.imageFormat q).stateSize) :=
    entered_started rfl _ _ _ _ _
  have hexec := escStore_of_ready (k := .saveImage) (.fnsave q m) m (s.imageFormat q).stateSize hr hreach fun u =>
    (u.drew.initNpx, some (u.envBytes (u.drawn 80) (u.imageFormat q) ++ u.stackBytes))
  generalize s.started .saveImage (.fnsave q m) m true (s.imageFormat q).stateSize = u at hu hexec
  refine ⟨u, u.drawn 80, hu, hexec.trans ?_⟩
  simp only [envBytes_of_entered hu, stackBytes_of_entered hu, imageFormat_of_cpu hu.cpu]
  rfl

theorem exec_fldenv (hr : s.Ready true) (hreach : s.Reachable q m false (s.imageFormat q).envSize) :
    ∃ u, s.Entered u ∧ exec (.fldenv q m) s =
      .next ((u.loadEnv (s.imageFormat q) (s.readPlace (s.place q m) (s.imageFormat q).envSize)).advance (.fldenv q m)) := by
  have hu : s.Entered (s.started .restore (.fldenv q m) m false (s.imageFormat q).envSize) := entered_started rfl _ _ _ _ _
  have hexec := escLoad_of_ready (k := .restore) (.fldenv q m) m (s.imageFormat q).envSize hr hreach fun bs u =>
    .next ((u.loadEnv (u.imageFormat q) bs).advance (.fldenv q m))
  rw [imageFormat_of_cpu hu.cpu] at hexec
  exact ⟨_, hu, hexec⟩

theorem exec_frstor (hr : s.Ready true) (hreach : s.Reachable q m false (s.imageFormat q).stateSize) :
    ∃ u bs, s.Entered u ∧ bs = s.readPlace (s.place q m) (s.imageFormat q).stateSize ∧ exec (.frstor q m) s =
      .next (((u.loadEnv (s.imageFormat q) bs).loadStack (bs.drop (s.imageFormat q).envSize)).advance (.frstor q m)) := by
  have hu : s.Entered (s.started .restore (.frstor q m) m false (s.imageFormat q).stateSize) := entered_started rfl _ _ _ _ _
  have hexec := escLoad_of_ready (k := .restore) (.frstor q m) m (s.imageFormat q).stateSize hr hreach fun bs u =>
    .next (((u.loadEnv (u.imageFormat q) bs).loadStack (bs.drop (u.imageFormat q).envSize)).advance (.frstor q m))
  rw [imageFormat_of_cpu hu.cpu] at hexec
  exact ⟨_, _, hu, rfl, hexec⟩

end Exec

/-! ## Images stored (R71 to R75) -/

theorem slot_le_envSize (f : ImageFormat) : f.slot + 2 ≤ f.envSize ∧ 2 * f.slot + 2 ≤ f.envSize ∧ 2 ≤ f.envSize
    ∧ f.stateSize ≤ 2 ^ 16 := by
  cases f <;> decide

/-- The fields of an image in memory. -/
theorem stored_fields {s t : State} {q : List Prefix} {m : MemOp} {d : BitVec 80} {f : ImageFormat} {rest : List Byte}
    {n : ℕ} (hread : readBytes t.mem (s.placeAddrs (s.place q m) n) = s.envBytes d f ++ rest) (hn : f.envSize ≤ n) :
    (imageField s t q m 0 2 = s.cw.toNat ∧ imageField s t q m f.slot 2 = s.sw.toBits.toNat
        ∧ imageField s t q m (2 * f.slot) 2 = s.tagWord)
      ∧ (f = .prot32 →
          imageField s t q m 12 4 = s.fip.off.toNat ∧ imageField s t q m 16 2 = s.fip.sel.toNat
            ∧ imageField s t q m 20 4 = s.fdp.off.toNat ∧ imageField s t q m 24 2 = s.fdp.sel.toNat)
      ∧ (f = .real32 →
          imageField s t q m 12 2 = linearOf s.fip % 2 ^ 16
            ∧ imageField s t q m 16 4 = linearOf s.fip / 2 ^ 16 * 2 ^ 12 + s.fop.toNat
            ∧ imageField s t q m 20 2 = linearOf s.fdp % 2 ^ 16
            ∧ imageField s t q m 24 4 = linearOf s.fdp / 2 ^ 16 * 2 ^ 12)
      ∧ (f = .prot16 →
          imageField s t q m 6 2 = s.fip.off.toNat % 2 ^ 16 ∧ imageField s t q m 8 2 = s.fip.sel.toNat
            ∧ imageField s t q m 10 2 = s.fdp.off.toNat % 2 ^ 16 ∧ imageField s t q m 12 2 = s.fdp.sel.toNat)
      ∧ (f = .real16 →
          imageField s t q m 6 2 = linearOf s.fip % 2 ^ 16
            ∧ imageField s t q m 8 2 = linearOf s.fip / 2 ^ 16 % 2 ^ 4 * 2 ^ 12 + s.fop.toNat
            ∧ imageField s t q m 10 2 = linearOf s.fdp % 2 ^ 16
            ∧ imageField s t q m 12 2 = linearOf s.fdp / 2 ^ 16 % 2 ^ 4 * 2 ^ 12) := by
  have hfield : ∀ off k, off + k ≤ f.envSize → imageField s t q m off k = field (s.envBytes d f ++ rest) off k :=
    fun off k h => imageField_eq hread (h.trans hn)
  obtain ⟨h1, h2, h0, -⟩ := slot_le_envSize f
  refine ⟨?_, ?_, ?_, ?_, ?_⟩
  · rw [hfield 0 2 h0, hfield _ 2 h1, hfield _ 2 h2]
    exact envBytes_words s d rest f
  · rintro rfl
    rw [hfield 12 4 (by decide), hfield 16 2 (by decide), hfield 20 4 (by decide), hfield 24 2 (by decide)]
    exact envBytes_prot32 s d rest
  · rintro rfl
    rw [hfield 12 2 (by decide), hfield 16 4 (by decide), hfield 20 2 (by decide), hfield 24 4 (by decide)]
    exact envBytes_real32 s d rest
  · rintro rfl
    rw [hfield 6 2 (by decide), hfield 8 2 (by decide), hfield 10 2 (by decide), hfield 12 2 (by decide)]
    exact envBytes_prot16 s d rest
  · rintro rfl
    rw [hfield 6 2 (by decide), hfield 8 2 (by decide), hfield 10 2 (by decide), hfield 12 2 (by decide)]
    exact envBytes_real16 s d rest

theorem maskAll_errorPin (s : State) : s.maskAll.errorPin = false := by
  have hmasked : ∀ x, masked (s.cw ||| 0x3F) x = true := fun x => by
    rw [masked, BitVec.getLsbD_or]
    cases x <;> simp [Exc.bit]
  show unmaskedFlag (s.cw ||| 0x3F) s.sw = false
  simp only [unmaskedFlag, hmasked, Bool.not_true, Bool.and_false, Bool.or_false]

/-- Settles O56: the image is taken before the instruction masks or initialises. -/
theorem imagesAreStored : Obligations.ImagesAreStored := by
  intro q m s i n f hs hr hi hreach
  obtain ⟨-, -, -, hsize⟩ := slot_le_envSize f
  have hmemory : ∀ {u v : State} (bs : List Byte), s.Entered u → v.mem = u.mem → bs.length = n → n ≤ 2 ^ 16 →
      readBytes (v.store (s.placeAddrs (s.place q m) n) bs).mem (s.placeAddrs (s.place q m) n) = bs :=
    fun bs hu hv hlen hn => readBytes_store s _ (by rw [hv, hu.mem]; exact hs.1) hn hlen
  rcases hi with ⟨rfl, rfl⟩ | ⟨rfl, rfl⟩
  · obtain ⟨u, d, hu, hexec⟩ := exec_fnstenv hr hreach
    have hread := hmemory (v := u.drew.drawC3210.maskAll) (s.envBytes d f) hu rfl (envBytes_length s d f)
      ((Nat.le_add_right _ 80).trans hsize)
    obtain ⟨⟨hcw, hsw, htw⟩, h1, h2, h3, h4⟩ :=
      stored_fields (rest := []) (hread.trans (List.append_nil _).symm) le_rfl
    have hflag : ∀ x, u.drew.drawC3210.maskAll.sw.flag x = s.sw.flag x := fun x => by
      rw [← hu.sw]
      exact flags_of_sw ⟨rfl, rfl, rfl, rfl, rfl, rfl⟩ x
    have hmask : u.cw ||| 0x3F = s.cw ||| 0x3F := congrArg (· ||| 0x3F) hu.cw
    have htop : u.sw.top = s.sw.top := congrArg StatusWord.top hu.sw
    exact ⟨_, hexec, keepsMemory_of_store (congrArg (writeBytes · _ _) hu.mem), hcw, hsw, htw, h1, h2, h3, h4, hu.regs,
      hu.pointers, hu.completed (v := u.drew.drawC3210.maskAll.store _ _) _ (entered_refl u).cpu rfl,
      maskAll_errorPin u.drew.drawC3210, fun _ => ⟨hmask, hu.empty, htop, hflag, hu.sf⟩, nofun⟩
  · obtain ⟨u, d, hu, hexec⟩ := exec_fnsave hr hreach
    have hread := hmemory (v := u.drew.initNpx) _ hu rfl (stateImage_length s s d f) hsize
    obtain ⟨⟨hcw, hsw, htw⟩, h1, h2, h3, h4⟩ := stored_fields hread (Nat.le_add_right _ 80)
    obtain ⟨-, hword, htags, herror, -⟩ := initNpx_spec u
    refine ⟨_, hexec, keepsMemory_of_store (congrArg (writeBytes · _ _) hu.mem), hcw, hsw, htw, h1, h2, h3, h4, hu.regs,
      hu.pointers, hu.completed (v := u.drew.initNpx.store _ _) _ (entered_refl u).cpu rfl, herror, nofun,
      fun _ => ⟨rfl, hword, htags, fun k => ?_⟩⟩
    exact (imageField_eq hread (by have := k.isLt; unfold ImageFormat.stateSize; omega)).trans
      (stateImage_field s s d f k)

end Sys2Proof.Machine

/-! # FLDENV and FRSTOR (O57), and FRSTOR after FNSAVE (O58) -/

namespace Sys2Proof.Machine

/-! ## What is loaded (R76, R341) -/

theorem loadEnv_words (s : State) (f : ImageFormat) (bs : List Byte) :
    (s.loadEnv f bs).cw = BitVec.ofNat 16 (field bs 0 2)
      ∧ (s.loadEnv f bs).sw =
        (StatusWord.ofBits (BitVec.ofNat 16 (field bs f.slot 2))).summarise (BitVec.ofNat 16 (field bs 0 2))
      ∧ ∀ k : Fin 8, (s.loadEnv f bs).isEmpty k = (field bs (2 * f.slot) 2 / 4 ^ k.val % 4 == 3) := by
  have hofFn : ∀ (g : Fin 8 → Bool) (k : Fin 8), (Vector.ofFn g)[k] = g k := fun g k => Vector.getElem_ofFn k.isLt
  cases f <;> exact ⟨rfl, rfl, hofFn _⟩

theorem loadStack_reg (s : State) (bs : List Byte) (k : Fin 8) :
    (s.loadStack bs).reg k = extOfNat (field bs (10 * (k - s.sw.top).val) 10) :=
  Vector.getElem_ofFn k.isLt

theorem loadStack_st (s : State) (bs : List Byte) (k : Fin 8) :
    (s.loadStack bs).st k = extOfNat (field bs (10 * k.val) 10) := by
  have hphys : (s.loadStack bs).phys k - s.sw.top = k := add_sub_cancel_left s.sw.top k
  rw [State.st, loadStack_reg, hphys]

theorem field_drop (bs : List Byte) (a off n : ℕ) : field (bs.drop a) off n = field bs (a + off) n := by
  rw [field, field, List.drop_drop]

/-- FLDENV and FRSTOR end with an environment loaded; FRSTOR loads the registers too. -/
theorem exec_loadImage {q : List Prefix} {m : MemOp} {s : State} {i : Instr} {n : ℕ} (hr : s.Ready true)
    (hi : (i = .fldenv q m ∧ n = (s.imageFormat q).envSize) ∨ (i = .frstor q m ∧ n = (s.imageFormat q).stateSize))
    (hreach : s.Reachable q m false n) :
    ∃ u regs, s.Entered u
      ∧ exec i s = .next
        (State.advance { u.loadEnv (s.imageFormat q) (s.readPlace (s.place q m) n) with regs := regs } i)
      ∧ (i = .fldenv q m → regs = s.regs)
      ∧ (i = .frstor q m → regs = ((u.loadEnv (s.imageFormat q) (s.readPlace (s.place q m) n)).loadStack
          ((s.readPlace (s.place q m) n).drop (s.imageFormat q).envSize)).regs) := by
  rcases hi with ⟨rfl, rfl⟩ | ⟨rfl, rfl⟩
  · obtain ⟨u, hu, hexec⟩ := exec_fldenv hr hreach
    obtain ⟨-, -, hregs, -⟩ := loadEnv_keeps u (s.imageFormat q) (s.readPlace (s.place q m) (s.imageFormat q).envSize)
    exact ⟨u, _, hu, hexec, fun _ => hregs.trans hu.regs, nofun⟩
  · obtain ⟨u, bs, hu, rfl, hexec⟩ := exec_frstor hr hreach
    exact ⟨u, _, hu, hexec, nofun, fun _ => rfl⟩

/-- Settles O57: the state that the prelude hands over, with an environment loaded and the registers those that it says. -/
theorem imagesAreLoaded : Obligations.ImagesAreLoaded := by
  intro q m s i n f hr hi hreach
  obtain ⟨u, regs, hu, hexec, hfldenv, hfrstor⟩ := exec_loadImage hr hi hreach
  have hn : f.envSize ≤ n := by
    rcases hi with ⟨-, rfl⟩ | ⟨-, rfl⟩
    · exact le_rfl
    · exact Nat.le_add_right _ 80
  have hstate : i = .frstor q m → n = f.stateSize := by
    rcases hi with ⟨rfl, -⟩ | ⟨-, rfl⟩
    · nofun
    · exact fun _ => rfl
  change exec i s = .next (State.advance { u.loadEnv f (s.readPlace (s.place q m) n) with regs := regs } i) at hexec
  change i = .frstor q m → regs = ((u.loadEnv f (s.readPlace (s.place q m) n)).loadStack
    ((s.readPlace (s.place q m) n).drop f.envSize)).regs at hfrstor
  clear_value f
  clear hi hreach
  obtain ⟨h1, h2, h0, -⟩ := slot_le_envSize f
  have hfield : ∀ off k, off + k ≤ n → imageField s s q m off k = field (s.readPlace (s.place q m) n) off k :=
    fun off k h => imageField_eq rfl h
  generalize s.readPlace (s.place q m) n = bs at *
  obtain ⟨hcw, hsw, htags⟩ := loadEnv_words u f bs
  obtain ⟨hcpu, heip, -, hmem⟩ := loadEnv_keeps u f bs
  obtain ⟨-, -, hfop⟩ := hu.pointers
  have hload : ∀ off k, off + k ≤ f.envSize → field bs off k = imageField s s q m off k :=
    fun off k h => (hfield off k (h.trans hn)).symm
  rw [hload 0 2 h0] at hcw hsw
  rw [hload _ 2 h1] at hsw
  simp only [hload _ 2 h2] at htags
  refine ⟨_, hexec, hcw, ⟨_, toBits_ofBits _, ?_⟩, htags, ?_, ?_, ?_, ?_, hmem.trans hu.mem,
    hu.completed (v := { u.loadEnv f bs with regs := regs }) i hcpu heip, hfldenv, fun hi' k => ?_⟩
  · rw [← hcw] at hsw
    exact hsw
  · rintro rfl
    rw [← hload 16 2 (by decide), ← hload 12 4 (by decide), ← hload 24 2 (by decide), ← hload 20 4 (by decide)]
    exact ⟨rfl, rfl, hfop⟩
  · rintro rfl
    rw [← hload 12 2 (by decide), ← hload 16 4 (by decide), ← hload 20 2 (by decide), ← hload 24 4 (by decide)]
    exact ⟨rfl, rfl, rfl⟩
  · rintro rfl
    rw [← hload 8 2 (by decide), ← hload 6 2 (by decide), ← hload 12 2 (by decide), ← hload 10 2 (by decide)]
    exact ⟨rfl, rfl, hfop⟩
  · rintro rfl
    rw [← hload 6 2 (by decide), ← hload 8 2 (by decide), ← hload 10 2 (by decide), ← hload 12 2 (by decide)]
    exact ⟨rfl, rfl, rfl⟩
  · have hsize := hstate hi'
    have hlt : f.envSize + 10 * k.val + 10 ≤ n := by
      have := k.isLt
      rw [hsize, ImageFormat.stateSize]
      omega
    rw [hfield _ 10 hlt, ← field_drop, ← loadStack_st (u.loadEnv f bs) (bs.drop f.envSize) k, hfrstor hi']
    rfl

/-! ## The state saved and restored (R340, R341) -/

theorem extOfNat_extToNat (x : Ext) : extOfNat (extToNat x) = x := by
  obtain ⟨s, e, m⟩ := x
  have hs := s.toNat_le
  have he := e.isLt
  have hm := m.isLt
  have hn : extToNat ⟨s, e, m⟩ = s.toNat * 2 ^ 79 + e.toNat * 2 ^ 64 + m.toNat := rfl
  unfold extOfNat
  congr 1
  · have hdiv : extToNat ⟨s, e, m⟩ / 2 ^ 79 % 2 = s.toNat := by omega
    rw [hdiv]
    cases s <;> rfl
  · refine BitVec.eq_of_toNat_eq ?_
    rw [BitVec.toNat_ofNat, hn]
    omega
  · refine BitVec.eq_of_toNat_eq ?_
    rw [BitVec.toNat_ofNat, hn]
    omega

theorem ofNat_toNat_add_mul {n : ℕ} (w : BitVec n) (a : ℕ) : BitVec.ofNat n (a * 2 ^ n + w.toNat) = w := by
  refine BitVec.eq_of_toNat_eq ?_
  rw [BitVec.toNat_ofNat, Nat.mul_add_mod_self_right, Nat.mod_eq_of_lt w.isLt]

theorem summarise_of_holds {s : State} (h : s.summaryHolds) : s.sw.summarise s.cw = s.sw := by
  obtain ⟨hes, hbusy⟩ := h
  rw [StatusWord.summarise, ← hes]
  conv_rhs => rw [show s.sw = { s.sw with es := s.sw.es, busy := s.sw.busy } from rfl, hbusy]

/-- The addresses and the checks of an operand read nothing that an instruction changes. -/
theorem operand_of_cpu {s t : State} (h : s.KeepsCpu t) (q : List Prefix) (m : MemOp) (n : ℕ) :
    t.place q m = s.place q m ∧ t.placeAddrs (s.place q m) n = s.placeAddrs (s.place q m) n
      ∧ ∀ w, s.Reachable q m w n → t.Reachable q m w n := by
  obtain ⟨hgpr, hseg, hmode, -, -, -, -, hdenied, -⟩ := h
  have hplace : t.place q m = s.place q m := by rw [State.place, State.place, hgpr, hseg]
  have hlinear : t.linear = s.linear := by
    funext g off k
    rw [State.linear, State.linear, State.base, State.base, hmode]
  have haccess : t.accessible = s.accessible := by
    funext g off w k
    rw [State.accessible, State.accessible, hlinear, hdenied]
  refine ⟨hplace, by rw [State.placeAddrs, State.placeAddrs, State.addrs, State.addrs, hlinear], fun w hreach => ?_⟩
  rw [State.Reachable, hplace, State.firstFault, State.laterFault, haccess]
  exact hreach

/-- A state image loaded gives back what was stored. -/
theorem load_stored {s u : State} (hs : s.summaryHolds) (hfop : u.fop = s.fop) (d : BitVec 80) (f : ImageFormat) :
    let bs := s.envBytes d f ++ s.stackBytes
    let v := (u.loadEnv f bs).loadStack (bs.drop f.envSize)
    v.regs = s.regs ∧ v.empty = s.empty ∧ v.cw = s.cw ∧ v.sw = s.sw ∧ v.fop = s.fop
      ∧ (f = .prot32 → v.fip = s.fip ∧ v.fdp = s.fdp) := by
  intro bs v
  obtain ⟨hcw, hsw, htags⟩ := loadEnv_words u f bs
  obtain ⟨fcw, fsw, ftags⟩ := envBytes_words s d s.stackBytes f
  change field bs 0 2 = _ at fcw
  change field bs f.slot 2 = _ at fsw
  change field bs (2 * f.slot) 2 = _ at ftags
  rw [fcw, BitVec.ofNat_toNat, BitVec.setWidth_eq] at hcw
  rw [fsw, fcw, BitVec.ofNat_toNat, BitVec.setWidth_eq, BitVec.ofNat_toNat, BitVec.setWidth_eq, ofBits_toBits,
    summarise_of_holds hs] at hsw
  simp only [ftags, tagWord_digit, tag_eq_three] at htags
  refine ⟨?_, ?_, hcw, hsw, ?_, ?_⟩
  · refine Vector.ext fun j hj => ?_
    have hreg : v.reg ⟨j, hj⟩ = s.reg ⟨j, hj⟩ := by
      show State.reg (State.loadStack _ _) _ = _
      rw [loadStack_reg, field_drop, stateImage_field, extOfNat_extToNat, hsw, State.st, State.phys, add_sub_cancel]
    exact hreg
  · exact Vector.ext fun j hj => htags ⟨j, hj⟩
  · cases f with
    | prot32 => exact hfop
    | prot16 => exact hfop
    | real32 =>
      obtain ⟨-, hop, -⟩ := envBytes_real32 s d s.stackBytes
      show BitVec.ofNat 11 (field _ 16 4) = s.fop
      rw [hop, show (2 : ℕ) ^ 12 = 2 * 2 ^ 11 by norm_num, ← mul_assoc, ofNat_toNat_add_mul]
    | real16 =>
      obtain ⟨-, hop, -⟩ := envBytes_real16 s d s.stackBytes
      show BitVec.ofNat 11 (field _ 8 2) = s.fop
      rw [hop, show (2 : ℕ) ^ 12 = 2 * 2 ^ 11 by norm_num, ← mul_assoc, ofNat_toNat_add_mul]
  · rintro rfl
    obtain ⟨h12, h16, h20, h24⟩ := envBytes_prot32 s d s.stackBytes
    have hip : v.fip = selPtr (field bs 16 2) (field bs 12 4) := rfl
    have hdp : v.fdp = selPtr (field bs 24 2) (field bs 20 4) := rfl
    rw [hip, hdp, h12, h16, h20, h24]
    simp [selPtr]

/-- What FNSAVE leaves: its image in memory, processor and pointers as they were, and ERROR# inactive. -/
theorem saved_of_fnsave {q : List Prefix} {m : MemOp} {s : State} (hs : s.Sound) (hr : s.Ready false)
    (hreach : s.Reachable q m true (s.imageFormat q).stateSize) :
    ∃ t d, exec (.fnsave q m) s = .next t ∧ s.KeepsCpu t ∧ s.KeepsPointers t ∧ t.sw.es = false
      ∧ readBytes t.mem (s.placeAddrs (s.place q m) (s.imageFormat q).stateSize) =
        s.envBytes d (s.imageFormat q) ++ s.stackBytes := by
  obtain ⟨u, d, hu, hexec⟩ := exec_fnsave hr hreach
  obtain ⟨-, -, -, hsize⟩ := slot_le_envSize (s.imageFormat q)
  have hlen := stateImage_length s s d (s.imageFormat q)
  have hmem : u.drew.initNpx.mem = s.mem := hu.mem
  obtain ⟨-, -, -, herror, -⟩ := initNpx_spec u.drew
  exact ⟨_, d, hexec, hu.cpu, hu.pointers, herror,
    readBytes_store (u := u.drew.initNpx) s (s.place q m) (by rw [hmem]; exact hs.1) hsize hlen⟩

/-- Settles O58: what FRSTOR reads is the image that FNSAVE has stored. -/
theorem saveThenRestoreGivesTheStateBack : Obligations.SaveThenRestoreGivesTheStateBack := by
  intro q m s hs hr hwrite hread
  obtain ⟨t, d, hsave, hcpu, ⟨-, -, hfop⟩, hes, hbytes⟩ := saved_of_fnsave hs hr hwrite
  have hready : t.Ready true := by
    obtain ⟨-, -, -, hcr0, -⟩ := id hcpu
    obtain ⟨hem, hts, het, -⟩ := hr
    rw [State.Ready, hcr0]
    exact ⟨hem, hts, het, fun _ => hes⟩
  have hformat := imageFormat_of_cpu hcpu q
  obtain ⟨hplace, haddrs, hreachable⟩ := operand_of_cpu hcpu q m (s.imageFormat q).stateSize
  obtain ⟨u, bs, hu, hbs, hrestore⟩ := exec_frstor (q := q) (m := m) hready (by rw [hformat]; exact hreachable _ hread)
  rw [hformat, hplace, State.readPlace, haddrs, hbytes] at hbs
  rw [hformat] at hrestore
  subst hbs
  obtain ⟨-, -, hkept⟩ := hu.pointers
  obtain ⟨-, -, hsummary⟩ := hs
  obtain ⟨hregs, hempty, hcw, hsw, hop, hprot⟩ := load_stored hsummary (hkept.trans hfop) d (s.imageFormat q)
  exact ⟨t, _, hsave, hrestore, hregs, hempty, hcw, hsw, hop, hprot⟩

end Sys2Proof.Machine
